-- ==== Sys2Proof/Word.lean ====
section
/-! DEFINITION. The words of the block: the command word, the 32-bit response value, and the frame. -/

namespace Sys2Proof

/-- A command word, `cmd[7:0]` (30_encoding.md R101). -/
abbrev Byte := BitVec 8

/-- The 32-bit `value` field of a response (30_encoding.md R107). -/
abbrev Value := BitVec 32

/-- A frame: the number whose binary digits are its FRAME_BITS bits (20_memory.md R74). The width depends on the
configuration, so it is a check (`Config.Fits`) and not a type. DESIGN CHOICE, safe: log entry 7. -/
abbrev Frame := Nat

/-- SILENCE: the frame whose bits are all zero (00_scope.md R13). -/
def silence : Frame := 0

/-- ZERO_FRAME: the same value where it is filler and not audio (00_scope.md R13). -/
def zeroFrame : Frame := 0

end Sys2Proof
end

