-- ==== Sys2Proof/Config.lean ====
section
/-! DEFINITION. The configuration record of 00_scope.md R7, its derived parameters (R8) and its legal values (R10).
It is fixed at construction; the model holds it in the state as a field that no step changes (log entry 1). -/

namespace Sys2Proof

/-- SYNC_MODE (00_scope.md R7): 0, the two sides share one view of both cursors; 1, each side sees a lagging copy of the
other side's cursor. -/
inductive SyncMode where
  | shared   -- SYNC_MODE = 0
  | lagging  -- SYNC_MODE = 1
deriving DecidableEq, Repr

/-- RESET_CURSOR_MODE (00_scope.md R7): what RESET does to the cursors. -/
inductive ResetCursorMode where
  | align  -- ALIGN: writeIndex := readIndex
  | zero   -- ZERO: both cursors to 0
deriving DecidableEq, Repr

/-- The configuration record (00_scope.md R7). -/
structure Config where
  /-- `N`, the number of slots. -/
  n : Nat
  /-- `FRAME_LENGTH`, samples per channel per frame. -/
  frameLength : Nat
  /-- `CHANNELS`, channels per frame. -/
  channels : Nat
  /-- `SAMPLE_RATE`, samples per second per channel; only timing reads it. -/
  sampleRate : Nat
  /-- `SAMPLE_W`, bits per sample. -/
  sampleW : Nat
  /-- `CNT_W`, width of each metric counter. -/
  cntW : Nat
  /-- `SYNC_MODE`. -/
  syncMode : SyncMode
  /-- `RESET_CURSOR_MODE`. -/
  resetCursorMode : ResetCursorMode
deriving DecidableEq, Repr

/-- The defaults of 00_scope.md R7. DESIGN CHOICE for the OPEN rows: log entry 1. -/
def Config.default : Config where
  n := 24
  frameLength := 4096
  channels := 2
  sampleRate := 44100
  sampleW := 32
  cntW := 32
  syncMode := .shared
  resetCursorMode := .align

/-- `IDX_W = max(1, ceil(log2 N))`, the width of a cursor (00_scope.md R8). -/
def Config.idxW (c : Config) : Nat := max 1 ((c.n - 1).log2 + 1)

/-- `FRAME_SAMPLES = CHANNELS * FRAME_LENGTH` (00_scope.md R8). -/
def Config.frameSamples (c : Config) : Nat := c.channels * c.frameLength

/-- `FRAME_BITS = FRAME_SAMPLES * SAMPLE_W` (00_scope.md R8). -/
def Config.frameBits (c : Config) : Nat := c.frameSamples * c.sampleW

/-- `CAPACITY = N − 1`, the most frames the pool can hold (00_scope.md R8). -/
def Config.capacity (c : Config) : Nat := c.n - 1

/-- `CADENCE = FRAME_LENGTH / SAMPLE_RATE` in seconds (00_scope.md R8). No rule depends on it (70_reset_and_hazards.md
R290). -/
def Config.cadence (c : Config) : ℚ := (c.frameLength : ℚ) / (c.sampleRate : ℚ)

/-- The lead time of a full pool in seconds (70_reset_and_hazards.md R292). No rule depends on it. -/
def Config.leadTime (c : Config) : ℚ := (c.capacity : ℚ) * c.cadence

/-- The configurations that describe an instance of the block (00_scope.md R7 for the ranges, R10 for the refusal). -/
abbrev Config.Valid (c : Config) : Prop :=
  (2 ≤ c.n ∧ c.n ≤ 2 ^ 32) ∧ 1 ≤ c.frameLength ∧ 1 ≤ c.channels ∧ 1 ≤ c.sampleRate ∧ 1 ≤ c.sampleW ∧
    (1 ≤ c.cntW ∧ c.cntW ≤ 32)

/-- The frame has FRAME_BITS bits: no bit is set at position FRAME_BITS or above (20_memory.md R73). It is written with
a shift, and not as `f < 2 ^ FRAME_BITS`, so that it can be evaluated at the default FRAME_BITS of 262144. -/
abbrev Config.Fits (c : Config) (f : Frame) : Prop := f >>> c.frameBits = 0

end Sys2Proof
end

