-- ==== Sys2Proof/Syntax.lean ====
section
/-! DEFINITION. The three ports and the eight commands of spec/opcode_table.json. -/

namespace Sys2Proof

/-- The command ports (30_encoding.md R100). -/
inductive Port where
  | w  -- the Producer's write port
  | r  -- the Consumer's read port
  | c  -- the host's control port
deriving DecidableEq, Repr

/-- The two data ports, the ones that have a view of the pool (30_encoding.md R103). -/
inductive DataPort where
  | w
  | r
deriving DecidableEq, Repr

/-- The data port as a port. -/
def DataPort.port : DataPort → Port
  | .w => .w
  | .r => .r

/-- The commands, one constructor per row of spec/opcode_table.json, each with the ports that 30_encoding.md R103 leaves
open as an operand. PREPARE is a W command, USE an R command, and RESET and the metric reads are C commands, so those
carry no port. A word on a port that R103 does not list is no command at all (R106): the decoder refuses it and the block
answers ILLEGAL (R105). -/
inductive Instr where
  /-- NOP on any port (40_control.md R140). -/
  | nop (p : Port)
  /-- PREPARE on W with its frame operand (42_write_port.md R180). -/
  | prepare (f : Frame)
  /-- FILLED on W or R (41_queries.md R160). -/
  | filled (p : DataPort)
  /-- ISFULL on W or R (41_queries.md R161). -/
  | isFull (p : DataPort)
  /-- USE on R (43_read_port.md R200). -/
  | use
  /-- RESET on C (40_control.md R141). -/
  | reset
  /-- RD_UNDERRUNS on C (44_metrics.md R220). -/
  | rdUnderruns
  /-- RD_OVERRUNS on C (44_metrics.md R221). -/
  | rdOverruns
deriving DecidableEq, Repr

/-- The port a command arrives on (30_encoding.md R103). -/
def Instr.port : Instr → Port
  | .nop p => p
  | .prepare _ => .w
  | .filled p => p.port
  | .isFull p => p.port
  | .use => .r
  | .reset => .c
  | .rdUnderruns => .c
  | .rdOverruns => .c

end Sys2Proof
end

