-- ==== Sys2Proof/WellFormed.lean ====
section
/-! DEFINITION. Which instructions are commands of the block: the operand of PREPARE has exactly FRAME_BITS bits
(20_memory.md R73, 30_encoding.md R104). Every other operand is legal by its type. -/

namespace Sys2Proof

/-- The command is one of the block built with configuration `c`. -/
def Instr.wellFormed (c : Config) : Instr → Bool
  | .nop _ => true
  | .prepare f => decide (c.Fits f)
  | .filled _ => true
  | .isFull _ => true
  | .use => true
  | .reset => true
  | .rdUnderruns => true
  | .rdOverruns => true

end Sys2Proof
end

