-- ==== Sys2Proof/Decode.lean ====
section
/-! DEFINITION. The decoder of 30_encoding.md R101 to R106, total on every word on every port and rejecting by name, and
after it the encoder, written from the same table. -/

namespace Sys2Proof

/-- Why a word on a port is no command. The first three are the clauses (a), (b) and (c) of 30_encoding.md R105, and the
block answers them ILLEGAL. The last is an operand of another width, which is not a command of the block at all
(20_memory.md R73). -/
inductive Reject where
  /-- R105(a): `cmd[7:4]` is not zero. -/
  | reservedField
  /-- R105(b): OP is reserved. -/
  | reservedOp
  /-- R105(c): OP is legal, but not on this port. -/
  | wrongPort
  /-- R73: the operand of PREPARE does not fit in FRAME_BITS bits. -/
  | frameWidth
deriving DecidableEq, Repr

/-- The operations of the opcode map (30_encoding.md R102). -/
inductive Op where
  | nop
  | prepare
  | filled
  | isFull
  | use
  | reset
  | rdUnderruns
  | rdOverruns
deriving DecidableEq, Repr

/-- The field `cmd[7:4]`, RSV (30_encoding.md R101). -/
def rsvField (cmd : Byte) : BitVec 4 := cmd.extractLsb' 4 4

/-- The field `cmd[3:0]`, OP (30_encoding.md R101). -/
def opField (cmd : Byte) : BitVec 4 := cmd.extractLsb' 0 4

/-- The opcode map: what OP selects, `none` where it is reserved (30_encoding.md R102). -/
def opOfBits (b : BitVec 4) : Option Op :=
  match b.toNat with
  | 0x0 => some .nop
  | 0x1 => some .prepare
  | 0x2 => some .filled
  | 0x3 => some .isFull
  | 0x4 => some .use
  | 0x8 => some .reset
  | 0x9 => some .rdUnderruns
  | 0xA => some .rdOverruns
  | _ => none

/-- The command that an operation is on a port (30_encoding.md R102, R103), with the operand of PREPARE assembled from
`w_frame` (R104). Every other command ignores `w_frame`. -/
def assemble (c : Config) (op : Op) (p : Port) (frame : Frame) : Except Reject Instr :=
  match op, p with
  | .nop, p => .ok (.nop p)
  | .prepare, .w => if c.Fits frame then .ok (.prepare frame) else .error .frameWidth
  | .prepare, .r => .error .wrongPort
  | .prepare, .c => .error .wrongPort
  | .filled, .w => .ok (.filled .w)
  | .filled, .r => .ok (.filled .r)
  | .filled, .c => .error .wrongPort
  | .isFull, .w => .ok (.isFull .w)
  | .isFull, .r => .ok (.isFull .r)
  | .isFull, .c => .error .wrongPort
  | .use, .w => .error .wrongPort
  | .use, .r => .ok .use
  | .use, .c => .error .wrongPort
  | .reset, .w => .error .wrongPort
  | .reset, .r => .error .wrongPort
  | .reset, .c => .ok .reset
  | .rdUnderruns, .w => .error .wrongPort
  | .rdUnderruns, .r => .error .wrongPort
  | .rdUnderruns, .c => .ok .rdUnderruns
  | .rdOverruns, .w => .error .wrongPort
  | .rdOverruns, .r => .error .wrongPort
  | .rdOverruns, .c => .ok .rdOverruns

/-- The decoder (30_encoding.md R105, R106): the command that the word `cmd` is on port `p`, with `frame` on `w_frame`, or
the name of what makes it none. -/
def decode (c : Config) (p : Port) (cmd : Byte) (frame : Frame) : Except Reject Instr :=
  if rsvField cmd = 0 then
    match opOfBits (opField cmd) with
    | none => .error .reservedOp
    | some op => assemble c op p frame
  else .error .reservedField

/-- One command transaction: its port, its command word and its frame operand. The frame is `zeroFrame` where the command
takes none (30_encoding.md R100, R104). -/
structure Transaction where
  port : Port
  cmd : Byte
  frame : Frame
deriving DecidableEq, Repr

/-- The OP field of an operation (30_encoding.md R102). -/
def opBits : Op → BitVec 4
  | .nop => 0x0
  | .prepare => 0x1
  | .filled => 0x2
  | .isFull => 0x3
  | .use => 0x4
  | .reset => 0x8
  | .rdUnderruns => 0x9
  | .rdOverruns => 0xA

/-- The command word of an operation: RSV zero above OP (30_encoding.md R101). -/
def commandWord (op : Op) : Byte := (0 : BitVec 4) ++ opBits op

/-- The operation of a command. -/
def opOf : Instr → Op
  | .nop _ => .nop
  | .prepare _ => .prepare
  | .filled _ => .filled
  | .isFull _ => .isFull
  | .use => .use
  | .reset => .reset
  | .rdUnderruns => .rdUnderruns
  | .rdOverruns => .rdOverruns

/-- The frame a command puts on `w_frame` (30_encoding.md R104). -/
def operandOf : Instr → Frame
  | .nop _ => zeroFrame
  | .prepare f => f
  | .filled _ => zeroFrame
  | .isFull _ => zeroFrame
  | .use => zeroFrame
  | .reset => zeroFrame
  | .rdUnderruns => zeroFrame
  | .rdOverruns => zeroFrame

/-- The encoder: the transaction that issues a command. -/
def encode (i : Instr) : Transaction := ⟨i.port, commandWord (opOf i), operandOf i⟩

/-- The word is a command on the port, with a zero frame on `w_frame`. -/
def isCommandOn (p : Port) (cmd : Byte) : Bool := (decode Config.default p cmd zeroFrame).toBool

/-- The port on which a bare command word is issued: the first of W, R, C that 30_encoding.md R103 lists for it, and W for
a word that is legal on none. DESIGN CHOICE, safe: log entry 14. -/
def tablePort (cmd : Byte) : Port :=
  if isCommandOn .w cmd then .w
  else if isCommandOn .r cmd then .r
  else if isCommandOn .c cmd then .c
  else .w

/-- The command that a bare word of the opcode table decodes to on its table port, with operand bits of zeros. Every
command word has 8 bits (30_encoding.md R110), so any other length is none. -/
def decodeTableWord (nbits w : Nat) : Option Instr :=
  if nbits = 8 ∧ w < 256 then
    (decode Config.default (tablePort (BitVec.ofNat 8 w)) (BitVec.ofNat 8 w) zeroFrame).toOption
  else none

end Sys2Proof
end

