-- ==== Sys2Proof/Machine/State.lean ====
section
/-! DEFINITION. The state of the block (10_state.md R43) with what the model adds to it (log entries 1, 2, 4, 10), the
reasons a step can stop, and the state after hardware reset (70_reset_and_hazards.md R270). -/

namespace Sys2Proof.Machine

/-- The status codes of 30_encoding.md R108. -/
inductive Status where
  /-- `0b00`: the command did what its rule says on success. -/
  | ok
  /-- `0b01`: PREPARE on a full pool or USE on an empty one. -/
  | none
  /-- `0b10`: the word is illegal on this port. -/
  | illegal
  /-- `0b11`: the block never produces it. -/
  | reserved
deriving DecidableEq, Repr

/-- The two bits of a status (30_encoding.md R108). -/
def Status.code : Status → BitVec 2
  | .ok => 0b00
  | .none => 0b01
  | .illegal => 0b10
  | .reserved => 0b11

/-- A response on port W (30_encoding.md R100, R107). -/
structure WResponse where
  status : Status
  slot : Nat
  value : Value
deriving DecidableEq, Repr

/-- A response on port R (30_encoding.md R100, R107). -/
structure RResponse where
  status : Status
  slot : Nat
  value : Value
  frame : Frame
deriving DecidableEq, Repr

/-- A response on port C (30_encoding.md R100, R107). -/
structure CResponse where
  status : Status
  value : Value
deriving DecidableEq, Repr

/-- The conditions of 60_exceptions.md R240 and R241. -/
inductive Condition where
  /-- PREPARE found the pool full. -/
  | overrun
  /-- USE found the pool empty. -/
  | underrun
  /-- The word is illegal on the port it arrived on. -/
  | illegal (p : Port)
deriving DecidableEq, Repr

/-- One turn of the interleaving (20_memory.md R80, 10_state.md R50): the inputs of one transaction on a port
(30_encoding.md R100), a step of the Sync agent (R39), hardware reset, or an agent that starts or stops (log entry 10). -/
inductive Turn where
  /-- A transaction on W: `w_cmd` and `w_frame`. -/
  | portW (cmd : Byte) (frame : Frame)
  /-- A transaction on R: `r_cmd`. -/
  | portR (cmd : Byte)
  /-- A transaction on C: `c_cmd`. -/
  | portC (cmd : Byte)
  /-- SYNC_R2W. -/
  | syncR2W
  /-- SYNC_W2R. -/
  | syncW2R
  /-- Hardware reset. -/
  | rst
  /-- The agent on a data port is brought into Running (`true`) or is stopped (`false`), 70_reset_and_hazards.md R274(3),
  R281. -/
  | running (p : DataPort) (on : Bool)
deriving DecidableEq, Repr

/-- The slot store (10_state.md R36), sparse: the written slots by rising slot number, each with its frame. The block's
unit of storage is one frame (20_memory.md R70). A slot that is not listed holds nothing that a PREPARE wrote since
hardware reset: it reads as no value (70_reset_and_hazards.md R273). DESIGN CHOICE, safe: log entry 5. -/
abbrev Memory := List (Nat × Frame)

/-- The canonical form: slot numbers strictly rising. An unlisted slot has no value, so no entry can equal it. -/
abbrev Memory.wf (m : Memory) : Prop := m.Pairwise fun a b => a.1 < b.1

/-- Why a model stops with a fault. 60_exceptions.md R242: the block has none in a valid configuration, and a model's are
for a block that misbehaves and for violated usage rules. -/
inductive Fault where
  /-- Raised by a step from a state with a cursor, or under SYNC_MODE = 1 a view, outside `[0, N)` (60_exceptions.md R242).
  Safe: no run reaches such a state. -/
  | cursorOutOfRange
  /-- Raised by a step from a state that has recorded a response with status `0b11` (30_encoding.md R108). Safe: no run
  reaches such a state. -/
  | reservedStatus
  /-- Raised by RESET under SYNC_MODE = 1 while an agent runs (70_reset_and_hazards.md R281). Safe: the spec does not
  define that RESET and asks for this fault. -/
  | resetWhileRunning
  /-- Raised by USE of a slot that nothing has written since hardware reset (70_reset_and_hazards.md R273). Safe: no run
  reaches it (20_memory.md R82). -/
  | unwrittenSlot (i : Nat)
deriving DecidableEq, Repr

/-- Why a model gives no meaning. -/
inductive Refusal where
  /-- Raised by no arm: every instruction has its meaning. Safe. -/
  | notModelled (mnemonic : String)
  /-- Raised by `configure`, by a step and by an agent's cycle under a configuration that describes no instance of the block
  (00_scope.md R10). Safe. -/
  | invalidConfig
  /-- Raised by a PREPARE word on W whose frame does not have FRAME_BITS bits: it is not a command of this block
  (20_memory.md R73). Safe: the port has no wire for such a frame. -/
  | notACommand
  /-- Raised by a turn of the Sync agent under SYNC_MODE = 0, where there are no such steps (10_state.md R39). Safe. -/
  | noSyncAgent
deriving DecidableEq, Repr

/-- The state of the machine. The first seven fields after `cfg` are the block's own (10_state.md R43); the rest are the
model's, as their docstrings say. -/
structure State where
  /-- The configuration record (00_scope.md R7), a parameter that no step changes. -/
  cfg : Config
  /-- `W`, writeIndex (10_state.md R31). -/
  w : Nat
  /-- `R`, readIndex (10_state.md R32). -/
  r : Nat
  /-- `RV`, the write side's copy of `R`; read only under SYNC_MODE = 1 (10_state.md R38). -/
  rv : Nat
  /-- `WV`, the read side's copy of `W`; read only under SYNC_MODE = 1 (10_state.md R38). -/
  wv : Nat
  /-- `OCNT`, the overrun counter (10_state.md R41). -/
  ocnt : Nat
  /-- `UCNT`, the underrun counter (10_state.md R41). -/
  ucnt : Nat
  /-- `Slot[0..N−1]` (10_state.md R36). -/
  slots : Memory
  /-- The agent on W is running (70_reset_and_hazards.md R281; log entry 10). -/
  producerRunning : Bool
  /-- The agent on R is running (70_reset_and_hazards.md R281; log entry 10). -/
  consumerRunning : Bool
  /-- The turns still to come, the next one first (20_memory.md R80; log entry 2). -/
  pending : List Turn
  /-- The responses W has given, the latest last (70_reset_and_hazards.md R289; log entry 4). -/
  wOut : List WResponse
  /-- The responses R has given, the latest last. -/
  rOut : List RResponse
  /-- The responses C has given, the latest last. -/
  cOut : List CResponse
deriving DecidableEq, Repr

/-- The block of a configuration right after its first hardware reset (70_reset_and_hazards.md R270, R274): cursors, views
and counters 0, no slot written, the session Idle, nothing pending and no response given. The host builds a block with
`configure`, which refuses an illegal configuration; of an illegal one this record is no state of any block. -/
def State.construct (c : Config) : State where
  cfg := c
  w := 0
  r := 0
  rv := 0
  wv := 0
  ocnt := 0
  ucnt := 0
  slots := []
  producerRunning := false
  consumerRunning := false
  pending := []
  wOut := []
  rOut := []
  cOut := []

/-- The machine right after reset, in the default configuration (log entry 1). -/
def State.reset : State := State.construct Config.default

end Sys2Proof.Machine
end

