-- ==== Sys2Proof/Machine/Ops.lean ====
section
/-! DEFINITION. The named operations: arithmetic modulo N (the modulo_index_arbiter), the slot store, the response of a
command, raising a condition (the underrun_overrun_detector), RESET's cursor update, hardware reset and the Sync steps. -/

namespace Sys2Proof.Machine

/-- `inc_N(a)` (00_scope.md R14). -/
def incN (n a : Nat) : Nat := if a = n - 1 then 0 else a + 1

/-- `sub_N(a, b)` (00_scope.md R14). -/
def subN (n a b : Nat) : Nat := if b ≤ a then a - b else a + n - b

/-- One counter increment: `(c + 1) mod 2^CNT_W` (00_scope.md R15). -/
def countUp (cntW c : Nat) : Nat := (c + 1) % 2 ^ cntW

/-- `zext_32` (00_scope.md R11). -/
def zext32 (v : Nat) : Value := BitVec.ofNat 32 v

/-- `MemRead(i, 1)` (00_scope.md R12): the frame in slot `i`, or no value where nothing was written since hardware reset. -/
def memRead : Memory → Nat → Option Frame
  | [], _ => none
  | (k, f) :: m, i => if k = i then some f else memRead m i

/-- `MemWrite(i, 1, f)` (00_scope.md R12): slot `i` becomes `f`, at its place in the rising order. -/
def memWrite : Memory → Nat → Frame → Memory
  | [], i, f => [(i, f)]
  | (k, g) :: m, i, f =>
    if k < i then (k, g) :: memWrite m i f
    else if k = i then (i, f) :: m
    else (i, f) :: (k, g) :: m

/-- `respond(status, slot, value, frame)` (00_scope.md R12) on a port: the response with the fields that the port has
(30_encoding.md R107) is added to what the port has given. -/
def respond (p : Port) (status : Status) (slot : Nat) (value : Value) (frame : Frame) (s : State) : State :=
  match p with
  | .w => { s with wOut := s.wOut ++ [⟨status, slot, value⟩] }
  | .r => { s with rOut := s.rOut ++ [⟨status, slot, value, frame⟩] }
  | .c => { s with cOut := s.cOut ++ [⟨status, value⟩] }

/-- `raise <Condition>` (00_scope.md R12, 60_exceptions.md R240, R241): a condition is the command's response and, for an
overrun or an underrun, one count. It is no trap: nothing else changes and there is nothing to return from (R245, R246). -/
def raise (c : Condition) (s : State) : State :=
  match c with
  | .overrun => respond .w .none 0 0 zeroFrame { s with ocnt := countUp s.cfg.cntW s.ocnt }
  | .underrun => respond .r .none 0 0 silence { s with ucnt := countUp s.cfg.cntW s.ucnt }
  | .illegal p => respond p .illegal 0 0 zeroFrame s

/-- RESET's cursors: ALIGN moves `W` to `R`, ZERO moves both to 0 (40_control.md R141). -/
def alignCursors (s : State) : State :=
  match s.cfg.resetCursorMode with
  | .align => { s with w := s.r }
  | .zero => { s with w := 0, r := 0 }

/-- RESET's views: under SYNC_MODE = 1 each view becomes the cursor it copies; under SYNC_MODE = 0 there is none
(40_control.md R141). -/
def alignViews (s : State) : State :=
  match s.cfg.syncMode with
  | .shared => s
  | .lagging => { s with rv := s.r, wv := s.w }

/-- RESET's whole effect on the block (40_control.md R141). Slots and counters stay. -/
def resetCursors (s : State) : State := alignViews (alignCursors s)

/-- Hardware reset (70_reset_and_hazards.md R270): cursors, views and counters 0, slot contents unspecified. The model
marks every slot unwritten, which R273 calls exact (log entry 6). The configuration, the turns still to come, the
responses already given and the agents' own run state are no part of the block's reset. -/
def hardwareReset (s : State) : State :=
  { s with w := 0, r := 0, rv := 0, wv := 0, ocnt := 0, ucnt := 0, slots := [] }

/-- SYNC_R2W: `RV <- R` (10_state.md R39). -/
def syncReadToWrite (s : State) : State := { s with rv := s.r }

/-- SYNC_W2R: `WV <- W` (10_state.md R39). -/
def syncWriteToRead (s : State) : State := { s with wv := s.w }

/-- An agent starts or stops (70_reset_and_hazards.md R274(3), R281). -/
def setRunning (p : DataPort) (on : Bool) (s : State) : State :=
  match p with
  | .w => { s with producerRunning := on }
  | .r => { s with consumerRunning := on }

/-- Either agent runs: the pool is not quiescent in the sense of 70_reset_and_hazards.md R281. -/
def agentsRunning (s : State) : Bool := s.producerRunning || s.consumerRunning

end Sys2Proof.Machine
end

