-- ==== Sys2Proof/Machine/Operands.lean ====
section
/-! DEFINITION. What a command reads: the view its port has of the other side's cursor (10_state.md R38), the count it sees
(R33, R42), and the samples of a frame (20_memory.md R74). -/

namespace Sys2Proof.Machine

/-- What the write side reads for `R`: the view `RV` under SYNC_MODE = 1, `R` itself under SYNC_MODE = 0 (10_state.md R38). -/
def readIndexSeen (s : State) : Nat :=
  match s.cfg.syncMode with
  | .shared => s.r
  | .lagging => s.rv

/-- What the read side reads for `W`: the view `WV` under SYNC_MODE = 1, `W` itself under SYNC_MODE = 0 (10_state.md R38). -/
def writeIndexSeen (s : State) : Nat :=
  match s.cfg.syncMode with
  | .shared => s.w
  | .lagging => s.wv

/-- The filled count a data port sees: `sub_N(W, RV)` on W and `sub_N(WV, R)` on R (41_queries.md R160). -/
def filledSeen (p : DataPort) (s : State) : Nat :=
  match p with
  | .w => subN s.cfg.n s.w (readIndexSeen s)
  | .r => subN s.cfg.n (writeIndexSeen s) s.r

/-- The port sees a full pool: `n >= N − 1` (41_queries.md R161). -/
def fullSeen (p : DataPort) (s : State) : Bool := decide (s.cfg.n - 1 ≤ filledSeen p s)

/-- `filledCount = sub_N(W, R)`, derived and not stored (10_state.md R33). -/
def filledCount (s : State) : Nat := subN s.cfg.n s.w s.r

/-- The pool is full: `filledCount >= N − 1` (10_state.md R34). -/
def poolFull (s : State) : Bool := decide (s.cfg.n - 1 ≤ filledCount s)

/-- The pool is empty: `filledCount == 0` (10_state.md R35). -/
def poolEmpty (s : State) : Bool := decide (filledCount s = 0)

/-- Sample `i` of channel `ch`: frame bits `(ch*FRAME_LENGTH + i)*SAMPLE_W` upward, SAMPLE_W of them (20_memory.md R74). -/
def sampleAt (c : Config) (f : Frame) (ch i : Nat) : Nat :=
  (f >>> ((ch * c.frameLength + i) * c.sampleW)) % 2 ^ c.sampleW

/-- The frame made of a list of samples, the first in the least significant bits: channel 0's samples in ascending order,
then channel 1's, and so on (20_memory.md R74). -/
def packSamples (c : Config) : List Nat → Nat
  | [] => 0
  | x :: xs => x % 2 ^ c.sampleW + (packSamples c xs) <<< c.sampleW

end Sys2Proof.Machine
end

