-- ==== Sys2Proof/Machine/Flags.lean ====
section
/-! DEFINITION. The four status outputs of 10_state.md R42, the block's only flags. Each is a function of the state and none
is stored. -/

namespace Sys2Proof.Machine

/-- `w_full`, the write side's full flag (10_state.md R42). -/
def wFull (s : State) : Bool := decide (s.cfg.n - 1 ≤ subN s.cfg.n s.w (readIndexSeen s))

/-- `w_filled` (10_state.md R42). -/
def wFilled (s : State) : Nat := subN s.cfg.n s.w (readIndexSeen s)

/-- `r_empty`, the read side's empty flag (10_state.md R42). -/
def rEmpty (s : State) : Bool := decide (subN s.cfg.n (writeIndexSeen s) s.r = 0)

/-- `r_filled` (10_state.md R42). -/
def rFilled (s : State) : Nat := subN s.cfg.n (writeIndexSeen s) s.r

end Sys2Proof.Machine
end

