-- ==== Sys2Proof/Machine/Control.lean ====
section
/-! DEFINITION. The control commands NOP and RESET (40_control.md). -/

namespace Sys2Proof.Machine

/-- NOP: responds OK and changes nothing (40_control.md R140). -/
def execNop (p : Port) (s : State) : Host.Outcome State Fault Refusal :=
  .next (respond p .ok 0 0 zeroFrame s)

/-- RESET: sets the cursors equal and the views with them, and responds OK (40_control.md R141). Under SYNC_MODE = 1 while
an agent runs the spec does not define it, and a model treats it as a fault of the run (70_reset_and_hazards.md R281). -/
def execReset (s : State) : Host.Outcome State Fault Refusal :=
  if s.cfg.syncMode = .lagging ∧ agentsRunning s = true then .fault .resetWhileRunning
  else .next (respond .c .ok 0 0 zeroFrame (resetCursors s))

end Sys2Proof.Machine
end

