-- ==== Sys2Proof/Machine/Metric.lean ====
section
/-! DEFINITION. The metric commands RD_UNDERRUNS and RD_OVERRUNS (44_metrics.md). -/

namespace Sys2Proof.Machine

/-- RD_UNDERRUNS: responds OK with the underrun counter (44_metrics.md R220). -/
def execRdUnderruns (s : State) : Host.Outcome State Fault Refusal :=
  .next (respond .c .ok 0 (zext32 s.ucnt) zeroFrame s)

/-- RD_OVERRUNS: responds OK with the overrun counter (44_metrics.md R221). -/
def execRdOverruns (s : State) : Host.Outcome State Fault Refusal :=
  .next (respond .c .ok 0 (zext32 s.ocnt) zeroFrame s)

end Sys2Proof.Machine
end

