-- ==== Sys2Proof/Machine/Query.lean ====
section
/-! DEFINITION. The query commands FILLED and ISFULL (41_queries.md). -/

namespace Sys2Proof.Machine

/-- FILLED: responds OK with the count its port sees (41_queries.md R160). -/
def execFilled (p : DataPort) (s : State) : Host.Outcome State Fault Refusal :=
  .next (respond p.port .ok 0 (zext32 (filledSeen p s)) zeroFrame s)

/-- ISFULL: responds OK with 1 where its port sees a full pool and 0 elsewhere (41_queries.md R161). -/
def execIsFull (p : DataPort) (s : State) : Host.Outcome State Fault Refusal :=
  .next (respond p.port .ok 0 (zext32 (if fullSeen p s then 1 else 0)) zeroFrame s)

end Sys2Proof.Machine
end

