-- ==== Sys2Proof/Machine/ReadPort.lean ====
section
/-! DEFINITION. The read port command USE (43_read_port.md). -/

namespace Sys2Proof.Machine

/-- A successful USE of the frame `f` of slot `R`: the response is the old `R` and a copy of the frame, and `R` advances
(43_read_port.md R200). -/
def deliverFrame (f : Frame) (s : State) : State :=
  respond .r .ok s.r 0 f { s with r := incN s.cfg.n s.r }

/-- USE: an underrun where the read side sees an empty pool, and otherwise the frame in slot `R` is delivered
(43_read_port.md R200). The fault is 70_reset_and_hazards.md R273's, which no run reaches. -/
def execUse (s : State) : Host.Outcome State Fault Refusal :=
  if filledSeen .r s = 0 then .next (raise .underrun s)
  else
    match memRead s.slots s.r with
    | some f => .next (deliverFrame f s)
    | none => .fault (.unwrittenSlot s.r)

end Sys2Proof.Machine
end

