-- ==== Sys2Proof/Machine/WritePort.lean ====
section
/-! DEFINITION. The write port command PREPARE (42_write_port.md). -/

namespace Sys2Proof.Machine

/-- A successful PREPARE: `Slot[W] <- f`, the response names the old `W`, and `W` advances (42_write_port.md R180). -/
def storeFrame (f : Frame) (s : State) : State :=
  respond .w .ok s.w 0 zeroFrame { s with slots := memWrite s.slots s.w f, w := incN s.cfg.n s.w }

/-- PREPARE: an overrun where the write side sees a full pool, and otherwise the frame is stored (42_write_port.md R180). -/
def execPrepare (f : Frame) (s : State) : Host.Outcome State Fault Refusal :=
  if fullSeen .w s = true then .next (raise .overrun s) else .next (storeFrame f s)

end Sys2Proof.Machine
end

