-- ==== Sys2Proof/Machine/Dispatch.lean ====
section
/-! DEFINITION. The meaning of each command, one arm per constructor. -/

namespace Sys2Proof.Machine

def exec (i : Instr) (s : State) : Host.Outcome State Fault Refusal :=
  match i with
  | .nop p => Sys2Proof.Machine.execNop p s
  | .prepare f => Sys2Proof.Machine.execPrepare f s
  | .filled p => Sys2Proof.Machine.execFilled p s
  | .isFull p => Sys2Proof.Machine.execIsFull p s
  | .use => Sys2Proof.Machine.execUse s
  | .reset => Sys2Proof.Machine.execReset s
  | .rdUnderruns => Sys2Proof.Machine.execRdUnderruns s
  | .rdOverruns => Sys2Proof.Machine.execRdOverruns s

end Sys2Proof.Machine
end

