-- ==== Sys2Proof/Machine/Turns.lean ====
section
/-! DEFINITION. How the block takes its turns: a transaction is decoded and run, or answered ILLEGAL; the Sync agent moves a
view; hardware reset; what happens when no turn is left; and the checks that a block and its configuration are sound. -/

namespace Sys2Proof.Machine

/-- The legal words of a data port but NOP: those that only an agent that runs issues (60_exceptions.md R255). NOP is the word
an idle agent may send (40_control.md R140). -/
def agentWords (p : DataPort) : List Byte :=
  match p with
  | .w => [commandWord .prepare, commandWord .filled, commandWord .isFull]
  | .r => [commandWord .filled, commandWord .isFull, commandWord .use]

/-- The agent on a data port is taken to run from the first such word that it issues until a turn stops it. No other word
notes anything: an ILLEGAL word changes and records nothing (60_exceptions.md R241). The note is no state element of the block
(10_state.md R44), and only RESET under SYNC_MODE = 1 reads it (70_reset_and_hazards.md R281). DESIGN CHOICE: log entry
10. -/
def noteCommand (p : DataPort) (cmd : Byte) (s : State) : State :=
  if cmd ∈ agentWords p then setRunning p true s else s

/-- One word on one port: the command it decodes to is run, and any other word raises ILLEGAL (30_encoding.md R105,
R106; 60_exceptions.md R243). An operand of another width is not a command of the block (20_memory.md R73). -/
def runWord (p : Port) (cmd : Byte) (frame : Frame) (s : State) : Host.Outcome State Fault Refusal :=
  match decode s.cfg p cmd frame with
  | .ok i => exec i s
  | .error .reservedField => .next (raise (.illegal p) s)
  | .error .reservedOp => .next (raise (.illegal p) s)
  | .error .wrongPort => .next (raise (.illegal p) s)
  | .error .frameWidth => .refused .notACommand

/-- A step of the Sync agent, which exists only under SYNC_MODE = 1 (10_state.md R39, R54). A step that is not enabled
would write the value that is there (log entry 12). -/
def runSync (move : State → State) (s : State) : Host.Outcome State Fault Refusal :=
  match s.cfg.syncMode with
  | .shared => .refused .noSyncAgent
  | .lagging => .next (move s)

/-- One turn. Ports R and C have no frame input (30_encoding.md R104). -/
def runTurn (t : Turn) (s : State) : Host.Outcome State Fault Refusal :=
  match t with
  | .portW cmd frame => runWord .w cmd frame (noteCommand .w cmd s)
  | .portR cmd => runWord .r cmd zeroFrame (noteCommand .r cmd s)
  | .portC cmd => runWord .c cmd zeroFrame s
  | .syncR2W => runSync syncReadToWrite s
  | .syncW2R => runSync syncWriteToRead s
  | .rst => .next (hardwareReset s)
  | .running p on => .next (setRunning p on s)

/-- SYNC_R2W is enabled: SYNC_MODE = 1 and `RV != R` (10_state.md R39). -/
def syncR2WEnabled (s : State) : Bool := decide (s.cfg.syncMode = .lagging ∧ s.rv ≠ s.r)

/-- SYNC_W2R is enabled: SYNC_MODE = 1 and `WV != W` (10_state.md R39). -/
def syncW2REnabled (s : State) : Bool := decide (s.cfg.syncMode = .lagging ∧ s.wv ≠ s.w)

/-- What happens when no turn is left: the Sync agent takes the steps that are still enabled, as its fairness asks
(10_state.md R39), and then the run is at its end (70_reset_and_hazards.md R289) and the block waits, since it never stops
by itself. DEDUCED, safe: log entry 3. -/
def settle (s : State) : State :=
  if syncR2WEnabled s = true then syncReadToWrite s
  else if syncW2REnabled s = true then syncWriteToRead s
  else s

/-- The next turn is taken from the list, or the views settle. -/
def runNext (s : State) : Host.Outcome State Fault Refusal :=
  match s.pending with
  | [] => .next (settle s)
  | t :: rest => runTurn t { s with pending := rest }

/-- Every cursor, and under SYNC_MODE = 1 every view, is in `[0, N)` (60_exceptions.md R242, 10_state.md R43). -/
def cursorsInRange (s : State) : Bool :=
  decide (s.w < s.cfg.n) && decide (s.r < s.cfg.n) &&
    match s.cfg.syncMode with
    | .shared => true
    | .lagging => decide (s.rv < s.cfg.n) && decide (s.wv < s.cfg.n)

/-- No port has given status `0b11` (30_encoding.md R108). -/
def statusesProduced (s : State) : Bool :=
  s.wOut.all (fun x => decide (x.status ≠ .reserved)) && s.rOut.all (fun x => decide (x.status ≠ .reserved)) &&
    s.cOut.all (fun x => decide (x.status ≠ .reserved))

/-- One step: a configuration that describes no block is refused (00_scope.md R10), a block that misbehaves is a fault
(60_exceptions.md R242), and otherwise the next turn is taken. -/
def takeStep (s : State) : Host.Outcome State Fault Refusal :=
  if ¬ s.cfg.Valid then .refused .invalidConfig
  else if cursorsInRange s = false then .fault .cursorOutOfRange
  else if statusesProduced s = false then .fault .reservedStatus
  else runNext s

/-- The host configures the block, once, at construction (60_exceptions.md R255, 70_reset_and_hazards.md R274(1)): the block of
a legal record after its first hardware reset. An illegal record is refused, since it describes no block (00_scope.md R10). -/
def configure (c : Config) : Host.Outcome State Fault Refusal :=
  if c.Valid then .next (State.construct c) else .refused .invalidConfig

/-- The turn that issues a transaction. -/
def turnOf (t : Transaction) : Turn :=
  match t.port with
  | .w => .portW t.cmd t.frame
  | .r => .portR t.cmd
  | .c => .portC t.cmd

/-- The state with a bare command word issued next, on its table port with an operand of zeros (log entries 2 and 14). -/
def issueNext (s : State) (nbits w : Nat) : State :=
  let cmd := BitVec.ofNat 8 (w % 2 ^ nbits)
  { s with pending := turnOf ⟨tablePort cmd, cmd, zeroFrame⟩ :: s.pending }

end Sys2Proof.Machine
end

