-- ==== Sys2Proof/Machine/Step.lean ====
section
/-! DEFINITION. The step of the machine, and the placing of one command word where the step takes its next turn. -/

namespace Sys2Proof.Machine

/-- One step of the machine. -/
def step (s : State) : Host.Outcome State Fault Refusal := takeStep s

/-- `s` with the command word `w` issued as the very next turn. No program is stored in the block (10_state.md R30): an agent
issues each command from outside, and this stands for it (log entry 2). -/
def State.withFetchWord (s : State) (nbits w : Nat) : State := issueNext s nbits w

end Sys2Proof.Machine
end

