-- ==== Sys2Proof/Machine/Agents.lean ====
section
/-! DEFINITION. The reference agent programs of 70_reset_and_hazards.md R285 and R286 around the block. They are software
outside it (00_scope.md R6(6)): their state is no state of the block (10_state.md R44) and stands here in a record of its
own, with the position of each agent in its program (10_state.md R30; log entry 19). -/

namespace Sys2Proof.Machine

/-- The two conforming programs of the Producer (70_reset_and_hazards.md R285). -/
inductive ProducerProgram where
  /-- PREPARE the frame that is held or rendered, and hold it where the answer is NONE. -/
  | holdAndRetry
  /-- ISFULL first, and where it answers 0, render and PREPARE. -/
  | checkFirst
deriving DecidableEq, Repr

/-- Where the Producer stands in its program (10_state.md R30, 70_reset_and_hazards.md R285). -/
inductive ProducerPosition where
  /-- Between two cycles. -/
  | idle
  /-- At the head of a cycle. -/
  | start
  /-- After an ISFULL that answered 0, about to render: the check-first program only. -/
  | render
  /-- A frame is held, and `W: PREPARE` is next. -/
  | offer
  /-- The PREPARE was answered NONE: backing off until the next cycle or until `w_full` is 0. -/
  | backOff
deriving DecidableEq, Repr

/-- Where the Consumer stands in its program (10_state.md R30, 70_reset_and_hazards.md R286). -/
inductive ConsumerPosition where
  /-- Between two callbacks. -/
  | idle
  /-- Invoked by the device, and `R: USE` is next. -/
  | use
  /-- The response frame is there, and its copy to the device is next. -/
  | copyOut (frame : Frame)
deriving DecidableEq, Repr

/-- The block with its two reference agents. -/
structure System where
  block : State
  /-- `held` and `f` of R285: the frame the Producer holds. -/
  held : Option Frame
  /-- What the Consumer has given to the audio device, the latest last (R286). -/
  device : List Frame
  /-- The program the Producer runs, which no move changes. -/
  program : ProducerProgram
  /-- The Producer's position in it (10_state.md R30). -/
  producerAt : ProducerPosition
  /-- The Consumer's position in its program (10_state.md R30). -/
  consumerAt : ConsumerPosition
deriving DecidableEq, Repr

/-- A block with both agents between two cycles, nothing held and nothing given to the device. -/
def System.around (program : ProducerProgram) (s : State) : System where
  block := s
  held := none
  device := []
  program := program
  producerAt := .idle
  consumerAt := .idle

/-- One transaction of an agent on the block, and what the agent does with the block's answer. The transaction is the block's
next step, with every check of a step; turns that stand in the block's own list stay there (log entry 19). -/
def issue (t : Turn) (s : State) (k : State → Host.Outcome System Fault Refusal) : Host.Outcome System Fault Refusal :=
  match step { s with pending := t :: s.pending } with
  | .next s' => k s'
  | .fault e => .fault e
  | .refused e => .refused e

/-- The agent on a data port runs (70_reset_and_hazards.md R281; log entry 10). -/
def noteAgent (p : DataPort) (y : System) : System := { y with block := setRunning p true y.block }

/-- The latest response on W has status OK: the branch condition of R285. -/
def accepted (s : State) : Bool := decide (s.wOut.getLast?.map (·.status) = some .ok)

/-- The latest response on W has value 0: after ISFULL, the write side sees room (41_queries.md R162). -/
def roomSeen (s : State) : Bool := decide (s.wOut.getLast?.map (·.value) = some 0)

/-- The transaction `W: PREPARE f` of R285: on OK the frame is no longer held and the cycle is over, and on NONE it is held and
the Producer backs off. -/
def offerFrame (f : Frame) (y : System) : Host.Outcome System Fault Refusal :=
  issue (.portW (commandWord .prepare) f) y.block fun s =>
    if accepted s then .next { y with block := s, held := none, producerAt := .idle }
    else .next { y with block := s, held := some f, producerAt := .backOff }

/-- The frame of this Producer cycle: the held one, else what the backend renders, `none` where the render fails (R285). -/
def cycleFrame (held render : Option Frame) : Option Frame :=
  match held with
  | some f => some f
  | none => render

/-! ### The programs, one move at a time -/

/-- `if not held: f <- render(...)`: the frame is then held, and where the render fails the cycle is skipped (R285, R288). -/
def takeFrame (render : Option Frame) (y : System) : System :=
  match cycleFrame y.held render with
  | none => { y with producerAt := .idle }
  | some f => { y with held := some f, producerAt := .offer }

/-- The transaction `W: ISFULL` of the check-first program: the render is next where it answers 0, and elsewhere the cycle is
over (R285; what a cycle does after another answer is log entry 19). -/
def checkRoom (y : System) : Host.Outcome System Fault Refusal :=
  issue (.portW (commandWord .isFull) zeroFrame) y.block fun s =>
    .next { y with block := s, producerAt := if roomSeen s then .render else .idle }

/-- The head of a Producer cycle. -/
def startCycle (render : Option Frame) (y : System) : Host.Outcome System Fault Refusal :=
  match y.program with
  | .holdAndRetry => .next (takeFrame render y)
  | .checkFirst => checkRoom y

/-- The PREPARE of a Producer cycle. With nothing held there is none to issue, a state that no program reaches. -/
def offerHeld (y : System) : Host.Outcome System Fault Refusal :=
  match y.held with
  | some f => offerFrame f y
  | none => .next { y with producerAt := .idle }

/-- One move of the Producer from where it stands in its program (R285). While it backs off it waits for `w_full` to be 0. -/
def producerMove (render : Option Frame) (y : System) : Host.Outcome System Fault Refusal :=
  match y.producerAt with
  | .idle => .next y
  | .start => startCycle render y
  | .render => .next (takeFrame render y)
  | .offer => offerHeld y
  | .backOff => .next (if wFull y.block then y else { y with producerAt := .start })

/-- The Producer's next cycle begins, if it is between two cycles or backs off (R285). A cycle that would begin while the
Producer is still inside one, of which R285 does not speak, is dropped: DESIGN CHOICE, log entry 19. -/
def beginCycle (y : System) : System :=
  match y.producerAt with
  | .idle => { noteAgent .w y with producerAt := .start }
  | .start => y
  | .render => y
  | .offer => y
  | .backOff => { noteAgent .w y with producerAt := .start }

/-- The transaction `R: USE` of R286: the response frame is then in the Consumer's hands. -/
def useFrame (y : System) : Host.Outcome System Fault Refusal :=
  issue (.portR (commandWord .use)) y.block fun s =>
    match s.rOut.getLast? with
    | some x => .next { y with block := s, consumerAt := .copyOut x.frame }
    | none => .next { y with block := s, consumerAt := .idle }

/-- One move of the Consumer from where it stands in its program (R286). -/
def consumerMove (y : System) : Host.Outcome System Fault Refusal :=
  match y.consumerAt with
  | .idle => .next y
  | .use => useFrame y
  | .copyOut f => .next { y with device := y.device ++ [f], consumerAt := .idle }

/-- The device invokes the Consumer, if it is between two callbacks (R286). A callback that would come while the Consumer is
still inside one, of which 10_state.md R52 and R286 do not speak, is dropped, with no USE for it: DESIGN CHOICE, log entry
19. -/
def beginCallback (y : System) : System :=
  match y.consumerAt with
  | .idle => { noteAgent .r y with consumerAt := .use }
  | .use => y
  | .copyOut _ => y

/-- The host stops an agent: it no longer runs, and a Producer that backs off gives its cycle up and keeps the frame it holds
(70_reset_and_hazards.md R281). An agent inside a cycle or a callback is not stopped there, but runs until it is through and
a stop comes again: DESIGN CHOICE, log entry 19. -/
def stopAgent (p : DataPort) (y : System) : System :=
  match p with
  | .w =>
    match y.producerAt with
    | .idle => { y with block := setRunning .w false y.block }
    | .start => y
    | .render => y
    | .offer => y
    | .backOff => { y with block := setRunning .w false y.block, producerAt := .idle }
  | .r =>
    match y.consumerAt with
    | .idle => { y with block := setRunning .r false y.block }
    | .use => y
    | .copyOut _ => y

/-- One move of the whole system. Any order of moves is a run: between two moves of one agent any other may fall. -/
inductive Move where
  /-- The Producer takes the next step of its program. `render` is what the backend gives if that step calls it. -/
  | producer (render : Option Frame)
  /-- The Producer's next cycle begins. -/
  | nextCycle
  /-- The Consumer takes the next step of its program. -/
  | consumer
  /-- The device invokes the Consumer. -/
  | callback
  /-- The host stops an agent. -/
  | stop (p : DataPort)
  /-- The block takes its own next turn: the host, the Sync agent, hardware reset. -/
  | block
deriving DecidableEq, Repr

/-- The block, with an agent that stands inside its program noted as running, whatever a turn has said of it: what
70_reset_and_hazards.md R281 asks about is where the agent is (log entry 10). -/
def notedBlock (y : System) : State :=
  let s := if y.producerAt = .idle then y.block else setRunning .w true y.block
  if y.consumerAt = .idle then s else setRunning .r true s

/-- The block's own next turn, around which the agents stand where they stood. -/
def blockMove (y : System) : Host.Outcome System Fault Refusal :=
  match step (notedBlock y) with
  | .next s => .next { y with block := s }
  | .fault e => .fault e
  | .refused e => .refused e

/-- What a move does. -/
def takeMove (m : Move) (y : System) : Host.Outcome System Fault Refusal :=
  match m with
  | .producer render => producerMove render y
  | .nextCycle => .next (beginCycle y)
  | .consumer => consumerMove y
  | .callback => .next (beginCallback y)
  | .stop p => .next (stopAgent p y)
  | .block => blockMove y

/-- One step of the whole system, of which there is none around an illegal configuration (00_scope.md R10). -/
def systemStep (m : Move) (y : System) : Host.Outcome System Fault Refusal :=
  if y.block.cfg.Valid then takeMove m y else .refused .invalidConfig

/-- A run of the whole system. -/
def runMoves : List Move → System → Host.Outcome System Fault Refusal
  | [], y => .next y
  | m :: ms, y =>
    match systemStep m y with
    | .next y' => runMoves ms y'
    | .fault e => .fault e
    | .refused e => .refused e

/-! ### Whole cycles -/

/-- A cycle in which the agent issues nothing more. Around no block there is none (00_scope.md R10). -/
def skipCycle (y : System) : Host.Outcome System Fault Refusal :=
  if y.block.cfg.Valid then .next y else .refused .invalidConfig

/-- What the reference Producer does with the frame of this cycle: a failed render skips the cycle, and no PREPARE is issued
(R285, R288). -/
def renderAndOffer (render : Option Frame) (y : System) : Host.Outcome System Fault Refusal :=
  match cycleFrame y.held render with
  | none => skipCycle y
  | some f => offerFrame f y

/-- One undisturbed cycle of the reference Producer, which then runs (R285). -/
def producerCycle (render : Option Frame) (y : System) : Host.Outcome System Fault Refusal :=
  renderAndOffer render (noteAgent .w y)

/-- One undisturbed cycle of the check-first Producer (R285): ISFULL, and where it answers 0, render and PREPARE. -/
def checkFirstCycle (render : Option Frame) (y : System) : Host.Outcome System Fault Refusal :=
  issue (.portW (commandWord .isFull) zeroFrame) (noteAgent .w y).block fun s =>
    if roomSeen s then renderAndOffer render { y with block := s } else .next { y with block := s }

/-- One undisturbed device callback of the reference Consumer: one USE, whose frame goes to the device, with no retry
(R286). -/
def consumerTick (y : System) : Host.Outcome System Fault Refusal :=
  issue (.portR (commandWord .use)) (noteAgent .r y).block fun s =>
    .next { y with block := s, device := y.device ++ (s.rOut.getLast?.map (·.frame)).toList }

end Sys2Proof.Machine
end

