-- ==== Sys2Proof/Machine/Transcribe.lean ====
section
/-! DEFINITION. The textual transcriber of 30_encoding.md R106 and R111: from lines of text to the turns they stand for,
refusing a bad line by its number and the reason. A line is its list of characters. -/

namespace Sys2Proof.Machine

/-- Why the transcriber refuses a line. The first five are those that 30_encoding.md R106 names; the last three are lines
that the grammar of R111 does not derive at all (log entry 16). -/
inductive LineError where
  /-- A mnemonic that is not in the opcode map. -/
  | unknownMnemonic
  /-- A PREPARE without a frame operand. -/
  | missingFrame
  /-- A frame operand on any other mnemonic. -/
  | unexpectedFrame
  /-- A frame literal that does not fit in FRAME_BITS bits. -/
  | frameWidth
  /-- A port that is not `W`, `R` or `C`. -/
  | unknownPort
  /-- A Sync step under SYNC_MODE = 0. -/
  | noSyncAgent
  /-- An operand that is neither a hexadecimal literal nor a symbolic frame. -/
  | notAFrame
  /-- No `port ':' mnemonic` at all. -/
  | notALine
deriving DecidableEq, Repr

/-- A white-space character between the parts of a line. -/
def isBlank (ch : Char) : Bool := ch == ' ' || ch == '\t'

/-- The word read so far, if there is one. -/
def flush (word : List Char) : List (List Char) := if word = [] then [] else [word]

/-- The parts of a line: words between blanks, with `:` a part of its own. `word` is the word read so far. -/
def tokens : List Char → List Char → List (List Char)
  | [], word => flush word
  | ch :: rest, word =>
    if isBlank ch then flush word ++ tokens rest []
    else if ch = ':' then flush word ++ ([':'] :: tokens rest [])
    else tokens rest (word ++ [ch])

/-- The line without its comment. 30_encoding.md R111 derives a comment on a command line only; that one may follow a Sync step
as well is a DESIGN CHOICE, safe: log entry 16. -/
def withoutComment (line : List Char) : List Char := line.takeWhile fun ch => ch != ';'

/-- `port` of 30_encoding.md R111. -/
def portNamed : List Char → Option Port
  | ['W'] => some .w
  | ['R'] => some .r
  | ['C'] => some .c
  | _ => none

/-- `mnemonic` of 30_encoding.md R111. -/
def mnemonicNamed (name : List Char) : Option Op :=
  if name = ['N', 'O', 'P'] then some .nop
  else if name = ['P', 'R', 'E', 'P', 'A', 'R', 'E'] then some .prepare
  else if name = ['F', 'I', 'L', 'L', 'E', 'D'] then some .filled
  else if name = ['I', 'S', 'F', 'U', 'L', 'L'] then some .isFull
  else if name = ['U', 'S', 'E'] then some .use
  else if name = ['R', 'E', 'S', 'E', 'T'] then some .reset
  else if name = ['R', 'D', '_', 'U', 'N', 'D', 'E', 'R', 'R', 'U', 'N', 'S'] then some .rdUnderruns
  else if name = ['R', 'D', '_', 'O', 'V', 'E', 'R', 'R', 'U', 'N', 'S'] then some .rdOverruns
  else none

/-- The value of a digit in a base up to 16, `none` for a character that is no digit of it. -/
def digitValue (base : Nat) (ch : Char) : Option Nat :=
  let v :=
    if '0' ≤ ch ∧ ch ≤ '9' then some (ch.toNat - '0'.toNat)
    else if 'a' ≤ ch ∧ ch ≤ 'f' then some (ch.toNat - 'a'.toNat + 10)
    else if 'A' ≤ ch ∧ ch ≤ 'F' then some (ch.toNat - 'A'.toNat + 10)
    else none
  v.bind fun d => if d < base then some d else none

/-- The number that a list of digits writes, the most significant first, after the digits read so far. -/
def digitsFrom (base : Nat) : Nat → List Char → Option Nat
  | acc, [] => some acc
  | acc, ch :: rest =>
    match digitValue base ch with
    | some d => digitsFrom base (acc * base + d) rest
    | none => none

/-- A number of at least one digit. -/
def number (base : Nat) (digits : List Char) : Option Nat := if digits = [] then none else digitsFrom base 0 digits

/-- `frame` of 30_encoding.md R111: a hexadecimal literal, or `F` and a decimal number that names a symbolic frame. -/
def frameNamed (symbol : Nat → Frame) : List Char → Option Frame
  | '0' :: 'x' :: digits => number 16 digits
  | 'F' :: digits => (number 10 digits).map symbol
  | _ => none

/-- The operand of a line: PREPARE has exactly one, and every other mnemonic none (30_encoding.md R106, R111). -/
def lineOperand (c : Config) (symbol : Nat → Frame) (op : Op) (operands : List (List Char)) : Except LineError Frame :=
  if op = .prepare then
    match operands with
    | [] => .error .missingFrame
    | [x] =>
      match frameNamed symbol x with
      | none => .error .notAFrame
      | some f => if c.Fits f then .ok f else .error .frameWidth
    | _ :: _ :: _ => .error .unexpectedFrame
  else
    match operands with
    | [] => .ok zeroFrame
    | _ :: _ => .error .unexpectedFrame

/-- A line that issues a command. A mnemonic on a port where 30_encoding.md R103 does not allow it is written as that
command's word, which the block then answers ILLEGAL (R106). -/
def commandLine (c : Config) (symbol : Nat → Frame) (port mnemonic : List Char) (operands : List (List Char)) :
    Except LineError Turn :=
  match portNamed port with
  | none => .error .unknownPort
  | some p =>
    match mnemonicNamed mnemonic with
    | none => .error .unknownMnemonic
    | some op =>
      match lineOperand c symbol op operands with
      | .error e => .error e
      | .ok f => .ok (turnOf ⟨p, commandWord op, f⟩)

/-- A line that records a step of the Sync agent, under SYNC_MODE = 1 only (30_encoding.md R111). -/
def syncLine (c : Config) (t : Turn) : Except LineError Turn :=
  if c.syncMode = .lagging then .ok t else .error .noSyncAgent

/-- One line (30_encoding.md R106, R111). `symbol` says which frame each `F`k names. A comment may follow SYNC_R2W and SYNC_W2R
too, which the grammar of R111 leaves open: DESIGN CHOICE, safe, log entry 16. -/
def transcribeLine (c : Config) (symbol : Nat → Frame) (line : List Char) : Except LineError Turn :=
  match tokens (withoutComment line) [] with
  | [x] =>
    if x = ['S', 'Y', 'N', 'C', '_', 'R', '2', 'W'] then syncLine c .syncR2W
    else if x = ['S', 'Y', 'N', 'C', '_', 'W', '2', 'R'] then syncLine c .syncW2R
    else .error .notALine
  | port :: colon :: mnemonic :: operands =>
    if colon = [':'] then commandLine c symbol port mnemonic operands else .error .notALine
  | [] => .error .notALine
  | [_, _] => .error .notALine

/-- A program: its turns in order, or the number of the first bad line and why (30_encoding.md R106, R111). The first
argument is the number of the first line. -/
def transcribe (c : Config) (symbol : Nat → Frame) : Nat → List (List Char) → Except (Nat × LineError) (List Turn)
  | _, [] => .ok []
  | lineNumber, line :: rest =>
    match transcribeLine c symbol line with
    | .error e => .error (lineNumber, e)
    | .ok t =>
      match transcribe c symbol (lineNumber + 1) rest with
      | .error e => .error e
      | .ok ts => .ok (t :: ts)

end Sys2Proof.Machine
end

