-- ==== Sys2Proof/Safety.lean ====
section
/-! DEFINITION. What the claims speak of: the sound states, the pool's contents as a queue, runs and what they store and
deliver, and the end of a run. -/

namespace Sys2Proof.Machine

/-- The outcome is a next state that satisfies the test. -/
def nextSatisfies (o : Host.Outcome State Fault Refusal) (test : State → Bool) : Bool :=
  match o with
  | .next s => test s
  | .fault _ => false
  | .refused _ => false

/-- The ports on which an OP is legal, as the table of 30_encoding.md R102 lists them; none for a reserved OP. -/
def legalPorts (op : Nat) : List Port :=
  match op with
  | 0x0 => [.w, .r, .c]
  | 0x1 => [.w]
  | 0x2 => [.w, .r]
  | 0x3 => [.w, .r]
  | 0x4 => [.r]
  | 0x8 => [.c]
  | 0x9 => [.c]
  | 0xA => [.c]
  | _ => []

/-- The word is ILLEGAL on the port: clauses (a), (b) and (c) of 30_encoding.md R105, on the word as a number. -/
def illegalWord (p : Port) (cmd : Byte) : Bool :=
  decide (cmd.toNat / 16 ≠ 0) || decide (cmd.toNat % 16 ∈ [0x5, 0x6, 0x7, 0xB, 0xC, 0xD, 0xE, 0xF]) ||
    decide (p ∉ legalPorts (cmd.toNat % 16))

/-- The state passes the checks of a step: a legal configuration (00_scope.md R10), cursors in range and no status `0b11`
(60_exceptions.md R242). -/
abbrev Checked (s : State) : Prop := s.cfg.Valid ∧ cursorsInRange s = true ∧ statusesProduced s = true

/-- The slots that hold undelivered frames, the oldest first: `filledCount` slots from `R` on, modulo N. -/
def poolSlots (s : State) : List Nat := (List.range (filledCount s)).map fun k => (s.r + k) % s.cfg.n

/-- The undelivered frames with their slots, the oldest first. -/
def contents (s : State) : List (Nat × Frame) :=
  (poolSlots s).filterMap fun i => (memRead s.slots i).map fun f => (i, f)

/-- The view invariant (10_state.md R40), with the range of the views where they are state (R38). -/
structure ViewsSound (s : State) : Prop where
  range : s.cfg.syncMode = .lagging → s.rv < s.cfg.n ∧ s.wv < s.cfg.n
  writeSide : filledSeen .w s = filledCount s + subN s.cfg.n s.r (readIndexSeen s)
  writeBound : filledSeen .w s ≤ s.cfg.n - 1
  readSide : filledCount s = subN s.cfg.n s.w (writeIndexSeen s) + filledSeen .r s

/-- A sound state of the block: what every step keeps. -/
structure Sound (s : State) : Prop where
  /-- 00_scope.md R10. -/
  valid : s.cfg.Valid
  /-- 10_state.md R31. -/
  w_lt : s.w < s.cfg.n
  /-- 10_state.md R32. -/
  r_lt : s.r < s.cfg.n
  /-- 10_state.md R40. -/
  views : ViewsSound s
  /-- 10_state.md R41. -/
  ocnt_lt : s.ocnt < 2 ^ s.cfg.cntW
  /-- 10_state.md R41. -/
  ucnt_lt : s.ucnt < 2 ^ s.cfg.cntW
  /-- The slot store is in canonical form. -/
  slots_wf : Memory.wf s.slots
  /-- 10_state.md R36: only slots 0 .. N−1 exist. -/
  slots_lt : ∀ e ∈ s.slots, e.1 < s.cfg.n
  /-- 10_state.md R36: each is FRAME_BITS bits. -/
  slots_fit : ∀ e ∈ s.slots, s.cfg.Fits e.2
  /-- 20_memory.md R82: every undelivered slot was written since hardware reset. -/
  written : ∀ i ∈ poolSlots s, (memRead s.slots i).isSome
  /-- 30_encoding.md R108: status `0b11` is never produced. -/
  statuses : statusesProduced s = true

/-- `k` steps of the machine. -/
def runSteps (k : Nat) (s : State) : Host.Outcome State Fault Refusal := Host.Core.run Sys2Proof.core k s

/-- The run is at its end: every stream is exhausted and neither Sync step is enabled (70_reset_and_hazards.md R289). -/
def atEnd (s : State) : Bool := s.pending.isEmpty && !syncR2WEnabled s && !syncW2REnabled s

/-- The turn is a PREPARE word on W. -/
def isPrepareTurn : Turn → Bool
  | .portW cmd _ => decide (cmd = commandWord .prepare)
  | .portR _ => false
  | .portC _ => false
  | .syncR2W => false
  | .syncW2R => false
  | .rst => false
  | .running _ _ => false

/-- The turn is a USE word on R. -/
def isUseTurn : Turn → Bool
  | .portW _ _ => false
  | .portR cmd => decide (cmd = commandWord .use)
  | .portC _ => false
  | .syncR2W => false
  | .syncW2R => false
  | .rst => false
  | .running _ _ => false

/-- The turn is a RESET word on C or hardware reset: the two resets of 20_memory.md R81. -/
def isResetTurn : Turn → Bool
  | .portW _ _ => false
  | .portR _ => false
  | .portC cmd => decide (cmd = commandWord .reset)
  | .syncR2W => false
  | .syncW2R => false
  | .rst => true
  | .running _ _ => false

/-- The turn is one the block answers, in this state of the agents: the operand of a PREPARE has FRAME_BITS bits
(20_memory.md R73), a Sync step is under SYNC_MODE = 1 (10_state.md R39), and a RESET is not one that
70_reset_and_hazards.md R281 leaves undefined. -/
def admissible (s : State) : Turn → Bool
  | .portW cmd f => decide (cmd = commandWord .prepare → s.cfg.Fits f)
  | .portR _ => true
  | .portC cmd => decide (cmd = commandWord .reset → s.cfg.syncMode = .lagging → agentsRunning s = false)
  | .syncR2W => decide (s.cfg.syncMode = .lagging)
  | .syncW2R => decide (s.cfg.syncMode = .lagging)
  | .rst => true
  | .running _ _ => true

/-- The slot and frame that the step from `s` to `t` stored: those of a PREPARE whose response is OK (20_memory.md R81). -/
def storedBy (s t : State) : List (Nat × Frame) :=
  match s.pending.head?, t.wOut.getLast? with
  | some (.portW cmd f), some x => if cmd = commandWord .prepare ∧ x.status = .ok then [(x.slot, f)] else []
  | _, _ => []

/-- The slot and frame that the step from `s` to `t` delivered: those of a USE whose response is OK (20_memory.md R81). -/
def deliveredBy (s t : State) : List (Nat × Frame) :=
  match s.pending.head?, t.rOut.getLast? with
  | some (.portR cmd), some x => if cmd = commandWord .use ∧ x.status = .ok then [(x.slot, x.frame)] else []
  | _, _ => []

/-- `k` steps with no reset among them: the state they end in, and what they stored and what they delivered, each in
order. -/
def journal : Nat → State → Option (State × List (Nat × Frame) × List (Nat × Frame))
  | 0, s => some (s, [], [])
  | k + 1, s =>
    match step s with
    | .next t =>
      if s.pending.head?.any isResetTurn then none
      else
        match journal k t with
        | some (u, stored, delivered) => some (u, storedBy s t ++ stored, deliveredBy s t ++ delivered)
        | none => none
    | .fault _ => none
    | .refused _ => none

/-- The whole system around a sound block with the check-first Producer, which alone issues PREPAREs (10_state.md R51): where it
stands behind an ISFULL that answered 0, the write side still sees room. -/
structure CheckFirstSound (y : System) : Prop where
  sound : Sound y.block
  program : y.program = .checkFirst
  /-- No turn of the block's own list is a PREPARE. -/
  alone : y.block.pending.all (fun t => !isPrepareTurn t) = true
  /-- 41_queries.md R162. -/
  room : y.producerAt = .render ∨ y.producerAt = .offer → fullSeen .w y.block = false

end Sys2Proof.Machine
end

