-- ==== Sys2Proof/Certificates/Slice0/Obligations.lean ====
section
/-! DEFINITION. What is claimed of the model, each claim with the rule of spec/ it formalises. -/

open Sys2Proof Sys2Proof.Machine

/-! ### Arithmetic, configuration and encoding -/

/-- 00_scope.md R14: `inc_N` and `sub_N`, their ranges, and what they are modulo N. -/
def Obligations.ModularArithmeticIsModuloN : Prop :=
  ∀ n a b : Nat, a < n → b < n →
    incN n a = (if a = n - 1 then 0 else a + 1) ∧ subN n a b = (if a ≥ b then a - b else a + n - b) ∧
      incN n a < n ∧ subN n a b < n ∧ incN n a = (a + 1) % n ∧ (subN n a b : Int) = ((a : Int) - (b : Int)) % (n : Int)

/-- 00_scope.md R8: the derived parameters, and their values at the defaults. `IDX_W` is stated as the least width, at
least 1, whose encodings are at least N. -/
def Obligations.DerivedParameters : Prop :=
  (∀ c : Config, c.Valid →
    (1 ≤ c.idxW ∧ c.n ≤ 2 ^ c.idxW ∧ ∀ k, 1 ≤ k → c.n ≤ 2 ^ k → c.idxW ≤ k) ∧
      c.frameSamples = c.channels * c.frameLength ∧ c.frameBits = c.channels * c.frameLength * c.sampleW ∧
      c.capacity = c.n - 1 ∧ c.cadence * (c.sampleRate : ℚ) = (c.frameLength : ℚ)) ∧
    Config.default.idxW = 5 ∧ Config.default.frameSamples = 8192 ∧ Config.default.frameBits = 262144 ∧
      Config.default.capacity = 23 ∧ Config.default.cadence = 4096 / 44100

/-- 30_encoding.md R102, R103, R104, R106: the decoder and the encoder agree both ways. A well-formed command decodes from
its own transaction; and whatever decodes is a well-formed command whose transaction has that port and word, and whose
operand, if it takes one, is the frame that stood on `w_frame`. -/
def Obligations.DecodeAndEncodeAgree : Prop :=
  (∀ (c : Config) (i : Instr), i.wellFormed c = true →
    decode c (encode i).port (encode i).cmd (encode i).frame = .ok i) ∧
  (∀ (c : Config) (p : Port) (cmd : Byte) (f : Frame) (i : Instr), decode c p cmd f = .ok i →
    i.wellFormed c = true ∧ (encode i).port = p ∧ (encode i).cmd = cmd ∧ ∀ g, i = .prepare g → g = f)

/-- 30_encoding.md R105 and R106, 20_memory.md R73: every word on every port is exactly one of an illegal word, a PREPARE
word whose operand has another width, and a command. -/
def Obligations.DecodingIsTotal : Prop :=
  ∀ (c : Config) (p : Port) (cmd : Byte) (f : Frame),
    ((illegalWord p cmd = true ↔ ∃ e, e ≠ .frameWidth ∧ decode c p cmd f = .error e) ∧
      (decode c p cmd f = .error .frameWidth ↔ p = .w ∧ cmd = 0x01 ∧ ¬ c.Fits f) ∧
      ((∃ i, decode c p cmd f = .ok i) ↔ illegalWord p cmd = false ∧ (p = .w → cmd = 0x01 → c.Fits f)))

/-- 30_encoding.md R102: words of the opcode map written out, and what they decode to; reserved words decode to nothing. That a
bare word stands on the first of W, R, C on which it is legal, and carries an operand of zeros, is the model's choice, log
entry 14. -/
def Obligations.TableWordsDecode : Prop :=
  decodeTableWord 8 0x00 = some (.nop .w) ∧ decodeTableWord 8 0x01 = some (.prepare 0) ∧
    decodeTableWord 8 0x02 = some (.filled .w) ∧ decodeTableWord 8 0x03 = some (.isFull .w) ∧
    decodeTableWord 8 0x04 = some .use ∧ decodeTableWord 8 0x08 = some .reset ∧
    decodeTableWord 8 0x09 = some .rdUnderruns ∧ decodeTableWord 8 0x0A = some .rdOverruns ∧
    decodeTableWord 8 0x05 = none ∧ decodeTableWord 8 0x0B = none ∧ decodeTableWord 8 0x81 = none

/-- 20_memory.md R74: where a sample stands in a frame; the frame made of a list of samples, channel by channel, has
FRAME_BITS bits and holds each sample at its place; and a frame is determined by its samples. -/
def Obligations.FrameLayout : Prop :=
  ∀ c : Config, c.Valid →
    (∀ (f : Frame) (ch i j : Nat), j < c.sampleW →
      (sampleAt c f ch i).testBit j = f.testBit ((ch * c.frameLength + i) * c.sampleW + j)) ∧
    (∀ xs : List Nat, xs.length = c.frameSamples → (∀ x ∈ xs, x < 2 ^ c.sampleW) →
      c.Fits (packSamples c xs) ∧
        ∀ ch i, ch < c.channels → i < c.frameLength →
          xs[ch * c.frameLength + i]? = some (sampleAt c (packSamples c xs) ch i)) ∧
    (∀ f g : Frame, c.Fits f → c.Fits g →
      (∀ ch i, ch < c.channels → i < c.frameLength → sampleAt c f ch i = sampleAt c g ch i) → f = g)

/-! ### What a step does -/

/-- 30_encoding.md R100, R104, R106: a step whose next turn is a transaction runs the decoded command. Before it the turn
is taken off the list and, on a data port, the agent is noted as running (`noteCommand`, log entry 10). -/
def Obligations.StepRunsTheDecodedCommand : Prop :=
  ∀ (s : State) (rest : List Turn) (cmd : Byte) (f : Frame) (i : Instr), Checked s →
    (s.pending = .portW cmd f :: rest → decode s.cfg .w cmd f = .ok i →
      step s = exec i (noteCommand .w cmd { s with pending := rest })) ∧
    (s.pending = .portR cmd :: rest → decode s.cfg .r cmd zeroFrame = .ok i →
      step s = exec i (noteCommand .r cmd { s with pending := rest })) ∧
    (s.pending = .portC cmd :: rest → decode s.cfg .c cmd zeroFrame = .ok i →
      step s = exec i { s with pending := rest })

/-- The model's choice, log entry 10: which agent a transaction notes as running. PREPARE, FILLED and ISFULL on W note the
Producer, and FILLED, ISFULL and USE on R the Consumer; no other word notes any, an ILLEGAL one among them (60_exceptions.md
R241). -/
def Obligations.CommandsNoteTheirAgent : Prop :=
  ∀ (s : State) (cmd : Byte),
    (cmd = 0x01 ∨ cmd = 0x02 ∨ cmd = 0x03 → noteCommand .w cmd s = { s with producerRunning := true }) ∧
    (cmd = 0x02 ∨ cmd = 0x03 ∨ cmd = 0x04 → noteCommand .r cmd s = { s with consumerRunning := true }) ∧
    (cmd ≠ 0x01 → cmd ≠ 0x02 → cmd ≠ 0x03 → noteCommand .w cmd s = s) ∧
    (cmd ≠ 0x02 → cmd ≠ 0x03 → cmd ≠ 0x04 → noteCommand .r cmd s = s)

/-- 30_encoding.md R105, 60_exceptions.md R241: an illegal word is answered with status ILLEGAL and zeros on its port, and
changes and records nothing else: no cursor, view, counter or slot, and no agent is noted. The turn is taken off the list (log
entry 2) and the response joins those of its port (log entry 4). -/
def Obligations.IllegalWordsChangeNothing : Prop :=
  ∀ (s : State) (rest : List Turn) (cmd : Byte) (f : Frame), Checked s →
    (illegalWord .w cmd = true → s.pending = .portW cmd f :: rest →
      step s = .next { s with pending := rest, wOut := s.wOut ++ [⟨.illegal, 0, 0⟩] }) ∧
    (illegalWord .r cmd = true → s.pending = .portR cmd :: rest →
      step s = .next { s with pending := rest, rOut := s.rOut ++ [⟨.illegal, 0, 0, 0⟩] }) ∧
    (illegalWord .c cmd = true → s.pending = .portC cmd :: rest →
      step s = .next { s with pending := rest, cOut := s.cOut ++ [⟨.illegal, 0⟩] })

/-- 10_state.md R39: SYNC_R2W writes `R` to `RV` and SYNC_W2R writes `W` to `WV`, and nothing else; under SYNC_MODE = 0
there are no such steps, and the model refuses the turn (log entry 12). -/
def Obligations.SyncStepsMoveTheViews : Prop :=
  ∀ (s : State) (rest : List Turn), Checked s →
    (s.cfg.syncMode = .lagging →
      (s.pending = .syncR2W :: rest → step s = .next { s with pending := rest, rv := s.r }) ∧
      (s.pending = .syncW2R :: rest → step s = .next { s with pending := rest, wv := s.w })) ∧
    (s.cfg.syncMode = .shared → (s.pending = .syncR2W :: rest ∨ s.pending = .syncW2R :: rest) →
      step s = .refused .noSyncAgent)

/-- 70_reset_and_hazards.md R270: hardware reset sets cursors, views and counters to 0, the pool is then empty on both
ports, and the status outputs are as the table says. Nothing is said of the slots. The model's choices in it: the responses
given are kept (log entry 4), both running bits are kept (log entry 10), the turns to come are kept (log entry 2), and the
fields `rv` and `wv` are set under SYNC_MODE = 0 too (log entry 13). -/
def Obligations.HardwareResetSetsTheState : Prop :=
  ∀ (s : State) (rest : List Turn), Checked s → s.pending = .rst :: rest →
    ∃ t, step s = .next t ∧
      t = { s with pending := rest, w := 0, r := 0, rv := 0, wv := 0, ocnt := 0, ucnt := 0, slots := t.slots } ∧
      wFull t = false ∧ rEmpty t = true ∧ wFilled t = 0 ∧ rFilled t = 0 ∧ filledSeen .w t = 0 ∧ filledSeen .r t = 0

/-- 70_reset_and_hazards.md R270, 10_state.md R43: the block of every configuration after its first hardware reset, and
that `State.reset` is the one of the default configuration. The model's choices in it: the default configuration (log entry
1), and the value of `rv` and `wv` under SYNC_MODE = 0, where R270 gives none (log entry 13). -/
def Obligations.ResetStateValues : Prop :=
  (∀ c : Config, (State.construct c).cfg = c ∧ (State.construct c).w = 0 ∧ (State.construct c).r = 0 ∧
    (State.construct c).rv = 0 ∧ (State.construct c).wv = 0 ∧ (State.construct c).ocnt = 0 ∧
    (State.construct c).ucnt = 0 ∧ poolEmpty (State.construct c) = true) ∧
  State.reset = State.construct Config.default

/-- The model's choice, log entry 10: an agent's start or stop changes its own bit and nothing else. -/
def Obligations.AgentsStartAndStop : Prop :=
  ∀ (s : State) (rest : List Turn) (on : Bool), Checked s →
    (s.pending = .running .w on :: rest → step s = .next { s with pending := rest, producerRunning := on }) ∧
    (s.pending = .running .r on :: rest → step s = .next { s with pending := rest, consumerRunning := on })

/-- 00_scope.md R10, 30_encoding.md R108, 60_exceptions.md R242: what stops a step before any turn is taken. The model's own in
it: a view outside `[0, N)` faults as a cursor does, and before a recorded status (log entry 8); a recorded status `0b11` stops
every later step (log entry 9); an illegal configuration can be written down and its steps are refused, the bounds of R7 on N
and SAMPLE_RATE among its checks (log entry 17). -/
def Obligations.UnsoundBlocksStop : Prop :=
  ∀ s : State,
    (¬ s.cfg.Valid → step s = .refused .invalidConfig) ∧
    (s.cfg.Valid → (s.cfg.n ≤ s.w ∨ s.cfg.n ≤ s.r ∨ (s.cfg.syncMode = .lagging ∧ (s.cfg.n ≤ s.rv ∨ s.cfg.n ≤ s.wv))) →
      step s = .fault .cursorOutOfRange) ∧
    (s.cfg.Valid → cursorsInRange s = true →
      ((∃ x ∈ s.wOut, x.status = .reserved) ∨ (∃ x ∈ s.rOut, x.status = .reserved) ∨
        (∃ x ∈ s.cOut, x.status = .reserved)) → step s = .fault .reservedStatus)

/-! ### Control commands -/

/-- 40_control.md R140: NOP on any port responds OK with zeros and changes nothing; its word is 0x00 on every port. -/
def Obligations.NopOnlyResponds : Prop :=
  ∀ s : State,
    exec (.nop .w) s = .next { s with wOut := s.wOut ++ [⟨.ok, 0, 0⟩] } ∧
    exec (.nop .r) s = .next { s with rOut := s.rOut ++ [⟨.ok, 0, 0, 0⟩] } ∧
    exec (.nop .c) s = .next { s with cOut := s.cOut ++ [⟨.ok, 0⟩] } ∧
    ∀ (p : Port) (f : Frame), decode s.cfg p 0x00 f = .ok (.nop p)

/-- 40_control.md R141: RESET in its four modes. Slots and counters are unchanged. Under SYNC_MODE = 1 both agents are
stopped (70_reset_and_hazards.md R281), and their bits stay (log entry 10). -/
def Obligations.ResetSetsTheCursorsEqual : Prop :=
  ∀ s : State,
    (s.cfg.syncMode = .shared → s.cfg.resetCursorMode = .align →
      exec .reset s = .next { s with w := s.r, cOut := s.cOut ++ [⟨.ok, 0⟩] }) ∧
    (s.cfg.syncMode = .shared → s.cfg.resetCursorMode = .zero →
      exec .reset s = .next { s with w := 0, r := 0, cOut := s.cOut ++ [⟨.ok, 0⟩] }) ∧
    (s.cfg.syncMode = .lagging → s.producerRunning = false → s.consumerRunning = false →
      s.cfg.resetCursorMode = .align →
      exec .reset s = .next { s with w := s.r, rv := s.r, wv := s.r, cOut := s.cOut ++ [⟨.ok, 0⟩] }) ∧
    (s.cfg.syncMode = .lagging → s.producerRunning = false → s.consumerRunning = false →
      s.cfg.resetCursorMode = .zero →
      exec .reset s = .next { s with w := 0, r := 0, rv := 0, wv := 0, cOut := s.cOut ++ [⟨.ok, 0⟩] })

/-- 70_reset_and_hazards.md R281: under SYNC_MODE = 1 a RESET while an agent runs is a fault. -/
def Obligations.ResetWhileRunningFaults : Prop :=
  ∀ s : State, s.cfg.syncMode = .lagging → (s.producerRunning = true ∨ s.consumerRunning = true) →
    exec .reset s = .fault .resetWhileRunning

/-- 40_control.md R142: after RESET the pool is empty on both ports: USE returns NONE and counts one underrun, FILLED
returns 0 and ISFULL returns 0 on either port. -/
def Obligations.AfterResetThePoolIsEmpty : Prop :=
  ∀ s : State, s.cfg.Valid →
    (s.cfg.syncMode = .lagging → s.producerRunning = false ∧ s.consumerRunning = false) →
    ∃ t, exec .reset s = .next t ∧ filledCount t = 0 ∧
      exec .use t = .next { t with ucnt := (t.ucnt + 1) % 2 ^ t.cfg.cntW, rOut := t.rOut ++ [⟨.none, 0, 0, 0⟩] } ∧
      exec (.filled .w) t = .next { t with wOut := t.wOut ++ [⟨.ok, 0, 0⟩] } ∧
      exec (.filled .r) t = .next { t with rOut := t.rOut ++ [⟨.ok, 0, 0, 0⟩] } ∧
      exec (.isFull .w) t = .next { t with wOut := t.wOut ++ [⟨.ok, 0, 0⟩] } ∧
      exec (.isFull .r) t = .next { t with rOut := t.rOut ++ [⟨.ok, 0, 0, 0⟩] }

/-- 20_memory.md R79: RESET is idempotent: a second one right after a first changes nothing but adds its response. -/
def Obligations.ResetIsIdempotent : Prop :=
  ∀ s t : State, exec .reset s = .next t → exec .reset t = .next { t with cOut := t.cOut ++ [⟨.ok, 0⟩] }

/-! ### Query commands -/

/-- 10_state.md R38: what the views are in each mode. -/
def Obligations.ViewsByMode : Prop :=
  ∀ s : State,
    (s.cfg.syncMode = .shared → readIndexSeen s = s.r ∧ writeIndexSeen s = s.w) ∧
    (s.cfg.syncMode = .lagging → readIndexSeen s = s.rv ∧ writeIndexSeen s = s.wv)

/-- 41_queries.md R160: FILLED responds with the count its port sees and changes nothing. -/
def Obligations.FilledAnswersThePortsCount : Prop :=
  ∀ s : State,
    exec (.filled .w) s =
      .next { s with wOut := s.wOut ++ [⟨.ok, 0, BitVec.ofNat 32 (subN s.cfg.n s.w (readIndexSeen s))⟩] } ∧
    exec (.filled .r) s =
      .next { s with rOut := s.rOut ++ [⟨.ok, 0, BitVec.ofNat 32 (subN s.cfg.n (writeIndexSeen s) s.r), 0⟩] }

/-- 41_queries.md R161: ISFULL responds with 1 where the count its port sees is at least N − 1, with 0 elsewhere, and
changes nothing. -/
def Obligations.IsFullAnswersThePortsFlag : Prop :=
  ∀ s : State,
    exec (.isFull .w) s =
      .next { s with wOut := s.wOut ++ [⟨.ok, 0, if subN s.cfg.n s.w (readIndexSeen s) ≥ s.cfg.n - 1 then 1 else 0⟩] } ∧
    exec (.isFull .r) s =
      .next { s with
        rOut := s.rOut ++ [⟨.ok, 0, if subN s.cfg.n (writeIndexSeen s) s.r ≥ s.cfg.n - 1 then 1 else 0, 0⟩] }

/-- 41_queries.md R160(a), (d), R161(a), 10_state.md R33, R34, R35: in a sound state a port's count is at most N − 1, the
write side's is at least the true filledCount and the read side's at most, the 32-bit field of a response holds it, full is
`== N − 1`, and the pool is empty exactly when the cursors are equal. -/
def Obligations.CountsAreInRange : Prop :=
  ∀ s : State, Sound s →
    (∀ p : DataPort, filledSeen p s ≤ s.cfg.n - 1 ∧ (BitVec.ofNat 32 (filledSeen p s)).toNat = filledSeen p s ∧
      (fullSeen p s = true ↔ filledSeen p s = s.cfg.n - 1)) ∧
    filledSeen .r s ≤ filledCount s ∧ filledCount s ≤ filledSeen .w s ∧ filledCount s ≤ s.cfg.n - 1 ∧
    (poolFull s = true ↔ filledCount s = s.cfg.n - 1) ∧ (poolEmpty s = true ↔ s.w = s.r)

/-- 10_state.md R42: the four status outputs as functions of the state, and that they are what FILLED and ISFULL would
return on that port at that instant. -/
def Obligations.StatusOutputsAreTheQueries : Prop :=
  ∀ s : State,
    exec (.filled .w) s = .next { s with wOut := s.wOut ++ [⟨.ok, 0, BitVec.ofNat 32 (wFilled s)⟩] } ∧
    exec (.filled .r) s = .next { s with rOut := s.rOut ++ [⟨.ok, 0, BitVec.ofNat 32 (rFilled s), 0⟩] } ∧
    exec (.isFull .w) s = .next { s with wOut := s.wOut ++ [⟨.ok, 0, if wFull s then 1 else 0⟩] } ∧
    (wFull s = true ↔ subN s.cfg.n s.w (readIndexSeen s) ≥ s.cfg.n - 1) ∧
    wFilled s = subN s.cfg.n s.w (readIndexSeen s) ∧
    (rEmpty s = true ↔ subN s.cfg.n (writeIndexSeen s) s.r = 0) ∧
    rFilled s = subN s.cfg.n (writeIndexSeen s) s.r

/-! ### PREPARE and USE -/

/-- 42_write_port.md R180: where the write side sees room, PREPARE stores its frame in slot `W`, responds with the old `W`
and advances `W` by one modulo N. Every other slot reads as before and nothing else changes. -/
def Obligations.PrepareStoresItsFrame : Prop :=
  ∀ (s : State) (f : Frame), subN s.cfg.n s.w (readIndexSeen s) < s.cfg.n - 1 →
    ∃ t, exec (.prepare f) s = .next t ∧
      t = { s with w := (if s.w = s.cfg.n - 1 then 0 else s.w + 1), slots := t.slots,
                   wOut := s.wOut ++ [⟨.ok, s.w, 0⟩] } ∧
      memRead t.slots s.w = some f ∧ ∀ i, i ≠ s.w → memRead t.slots i = memRead s.slots i

/-- 42_write_port.md R180, 60_exceptions.md R240: where the write side sees no room, PREPARE responds NONE and counts one
overrun, and nothing else changes. -/
def Obligations.PrepareOverrunsWhenFull : Prop :=
  ∀ (s : State) (f : Frame), subN s.cfg.n s.w (readIndexSeen s) ≥ s.cfg.n - 1 →
    exec (.prepare f) s =
      .next { s with ocnt := (s.ocnt + 1) % 2 ^ s.cfg.cntW, wOut := s.wOut ++ [⟨.none, 0, 0⟩] }

/-- 43_read_port.md R200: where the read side sees a frame, USE responds with the frame of slot `R` and the old `R` and
advances `R` by one modulo N. No slot changes, and nothing else does. -/
def Obligations.UseDeliversTheFrame : Prop :=
  ∀ (s : State) (f : Frame), subN s.cfg.n (writeIndexSeen s) s.r ≠ 0 → memRead s.slots s.r = some f →
    exec .use s =
      .next { s with r := (if s.r = s.cfg.n - 1 then 0 else s.r + 1), rOut := s.rOut ++ [⟨.ok, s.r, 0, f⟩] }

/-- 43_read_port.md R200, 60_exceptions.md R240: where the read side sees none, USE responds NONE with SILENCE and counts
one underrun, and nothing else changes. -/
def Obligations.UseUnderrunsWhenEmpty : Prop :=
  ∀ s : State, subN s.cfg.n (writeIndexSeen s) s.r = 0 →
    exec .use s = .next { s with ucnt := (s.ucnt + 1) % 2 ^ s.cfg.cntW, rOut := s.rOut ++ [⟨.none, 0, 0, 0⟩] }

/-- The model's choice, log entry 5, which 70_reset_and_hazards.md R273 calls exact: a USE of an unwritten slot faults. No
sound state does so (`SoundBlocksAnswerEveryTurn`). -/
def Obligations.UseOfAnUnwrittenSlotFaults : Prop :=
  ∀ s : State, subN s.cfg.n (writeIndexSeen s) s.r ≠ 0 → memRead s.slots s.r = none →
    exec .use s = .fault (.unwrittenSlot s.r)

/-- 42_write_port.md R180(d), (g), 43_read_port.md R200(d), 20_memory.md R87: a lagging view errs only one way. In a sound
state a PREPARE that succeeds finds true room and writes a slot that holds no undelivered frame, and a USE that succeeds
finds a frame. -/
def Obligations.LaggingViewsAreConservative : Prop :=
  ∀ s : State, Sound s →
    (fullSeen .w s = false → filledCount s < s.cfg.n - 1 ∧ s.w ∉ poolSlots s) ∧
    (filledSeen .r s ≠ 0 → filledCount s ≠ 0 ∧ s.r ∈ poolSlots s)

/-- 42_write_port.md R180, 43_read_port.md R200, flags written: a successful PREPARE raises `w_filled` by one, and under
SYNC_MODE = 0 `r_filled` too, which it leaves under SYNC_MODE = 1; a successful USE lowers `r_filled` by one, and under
SYNC_MODE = 0 `w_filled` too, which it leaves under SYNC_MODE = 1. -/
def Obligations.SuccessMovesTheFlags : Prop :=
  ∀ s t : State, Sound s →
    (∀ f, fullSeen .w s = false → exec (.prepare f) s = .next t →
      wFilled t = wFilled s + 1 ∧ (wFull t = true ↔ wFilled s + 1 = s.cfg.n - 1) ∧
      (s.cfg.syncMode = .shared → rFilled t = rFilled s + 1 ∧ rEmpty t = false) ∧
      (s.cfg.syncMode = .lagging → rFilled t = rFilled s)) ∧
    (filledSeen .r s ≠ 0 → exec .use s = .next t →
      rFilled t + 1 = rFilled s ∧ (rEmpty t = true ↔ rFilled s = 1) ∧
      (s.cfg.syncMode = .shared → wFilled t + 1 = wFilled s ∧ wFull t = false) ∧
      (s.cfg.syncMode = .lagging → wFilled t = wFilled s))

/-- 60_exceptions.md R243: a PREPARE and a USE in the same cycle, which the model has as two orders (log entry 15). Where neither bound is met the two orders end in the same
state; under SYNC_MODE = 1 they always do. -/
def Obligations.SameCycleOrdersAgree : Prop :=
  ∀ (s : State) (f : Frame), Sound s →
    (s.cfg.syncMode = .shared → 0 < filledCount s ∧ filledCount s < s.cfg.n - 1) →
    ∃ a b t, exec (.prepare f) s = .next a ∧ exec .use a = .next t ∧
      exec .use s = .next b ∧ exec (.prepare f) b = .next t

/-- 60_exceptions.md R243: at the bounds both orders (log entry 15) are admitted, under SYNC_MODE = 0. On an empty pool the USE underruns
if it goes first and sees the new frame if it goes second; on a full pool the PREPARE overruns if it goes first and sees the
freed slot if it goes second. -/
def Obligations.SameCycleAtTheBounds : Prop :=
  ∀ (s : State) (f : Frame), Sound s → s.cfg.syncMode = .shared →
    (filledCount s = 0 →
      (∃ b, exec .use s = .next b ∧ b.rOut = s.rOut ++ [⟨.none, 0, 0, 0⟩]) ∧
      (∃ a t, exec (.prepare f) s = .next a ∧ exec .use a = .next t ∧ t.rOut = s.rOut ++ [⟨.ok, s.r, 0, f⟩])) ∧
    (filledCount s = s.cfg.n - 1 →
      (∃ a, exec (.prepare f) s = .next a ∧ a.wOut = s.wOut ++ [⟨.none, 0, 0⟩]) ∧
      (∃ b t, exec .use s = .next b ∧ exec (.prepare f) b = .next t ∧ t.wOut = s.wOut ++ [⟨.ok, s.w, 0⟩]))

/-! ### Metric commands and counters -/

/-- 44_metrics.md R220, R221: the metric reads respond with their counter and change nothing; with the counter in its
range the 32-bit field holds it. -/
def Obligations.MetricReadsAnswerTheCounter : Prop :=
  ∀ s : State,
    exec .rdUnderruns s = .next { s with cOut := s.cOut ++ [⟨.ok, BitVec.ofNat 32 s.ucnt⟩] } ∧
    exec .rdOverruns s = .next { s with cOut := s.cOut ++ [⟨.ok, BitVec.ofNat 32 s.ocnt⟩] } ∧
    (s.cfg.Valid → s.ucnt < 2 ^ s.cfg.cntW → s.ocnt < 2 ^ s.cfg.cntW →
      (BitVec.ofNat 32 s.ucnt).toNat = s.ucnt ∧ (BitVec.ofNat 32 s.ocnt).toNat = s.ocnt)

/-- 44_metrics.md R222: what counts. A step adds one to `OCNT`, modulo `2^CNT_W`, exactly when it is a PREPARE on W whose
response is NONE, and to `UCNT` exactly when it is a USE on R whose response is NONE; hardware reset sets both to 0; no
other step changes either. -/
def Obligations.OnlyNonesAreCounted : Prop :=
  ∀ s t : State, step s = .next t →
    (s.pending.head? = some .rst → t.ocnt = 0 ∧ t.ucnt = 0) ∧
    (s.pending.head? ≠ some .rst →
      t.ocnt = (if s.pending.head?.any isPrepareTurn = true ∧ t.wOut.getLast?.map (·.status) = some .none
        then (s.ocnt + 1) % 2 ^ s.cfg.cntW else s.ocnt) ∧
      t.ucnt = (if s.pending.head?.any isUseTurn = true ∧ t.rOut.getLast?.map (·.status) = some .none
        then (s.ucnt + 1) % 2 ^ s.cfg.cntW else s.ucnt))

/-! ### Whole-machine rules -/

/-- 10_state.md R37, R36, R31, R32, 00_scope.md R7: who writes what. No step changes the configuration; `W` changes only by
PREPARE on W or a reset, `R` only by USE on R or a reset, a slot only by PREPARE on W and only slot `W` (hardware reset
aside, whose slot contents are unspecified, R270), `RV` and `WV` only by a Sync step, of its own or the one that is taken
when no turn is left (log entry 3), or a reset. -/
def Obligations.StateHasItsOwners : Prop :=
  ∀ s t : State, step s = .next t →
    t.cfg = s.cfg ∧
    (t.w ≠ s.w → s.pending.head?.any isPrepareTurn = true ∨ s.pending.head?.any isResetTurn = true) ∧
    (t.r ≠ s.r → s.pending.head?.any isUseTurn = true ∨ s.pending.head?.any isResetTurn = true) ∧
    (∀ i, memRead t.slots i ≠ memRead s.slots i →
      (s.pending.head?.any isPrepareTurn = true ∧ i = s.w) ∨ s.pending.head? = some .rst) ∧
    (t.rv ≠ s.rv → s.pending.head?.all (fun x => decide (x = .syncR2W)) = true ∨
      s.pending.head?.any isResetTurn = true) ∧
    (t.wv ≠ s.wv → s.pending.head?.all (fun x => decide (x = .syncW2R)) = true ∨
      s.pending.head?.any isResetTurn = true)

/-- 70_reset_and_hazards.md R270: the invariant holds of the machine right after reset, in the default configuration (the
model's choice, log entry 1). -/
def Obligations.ResetIsSound : Prop := Sound State.reset

/-- 00_scope.md R10, 70_reset_and_hazards.md R270: it holds of the block of every legal configuration after hardware
reset, whatever turns are to come. -/
def Obligations.EveryLegalBlockIsSoundAfterReset : Prop :=
  ∀ (c : Config) (ts : List Turn), c.Valid → Sound { State.construct c with pending := ts }

/-- 10_state.md R31, R32, R36, R40, R41, 20_memory.md R82: every step keeps the invariant: cursors and views in range, the
view invariant, counters below `2^CNT_W`, the slot store canonical with only existing slots and frames of FRAME_BITS bits,
every undelivered slot written, and no status `0b11`. -/
def Obligations.StepKeepsTheInvariant : Prop := ∀ s t : State, Sound s → step s = .next t → Sound t

/-- 10_state.md R40: the view invariant in every reachable state: after any number of steps of any turns, from hardware
reset of any legal configuration. -/
def Obligations.ViewInvariantIsReachable : Prop :=
  ∀ (c : Config) (ts : List Turn) (k : Nat) (s : State), c.Valid →
    runSteps k { State.construct c with pending := ts } = .next s →
    subN c.n s.w (readIndexSeen s) = subN c.n s.w s.r + subN c.n s.r (readIndexSeen s) ∧
      subN c.n s.w (readIndexSeen s) ≤ c.n - 1 ∧
      subN c.n s.w s.r = subN c.n s.w (writeIndexSeen s) + subN c.n (writeIndexSeen s) s.r ∧
      subN c.n (writeIndexSeen s) s.r ≤ filledCount s ∧ filledCount s ≤ subN c.n s.w (readIndexSeen s)

/-- 60_exceptions.md R242, 20_memory.md R84: a sound block answers every turn that is admissible (a PREPARE operand of
FRAME_BITS bits, a Sync step under SYNC_MODE = 1, a RESET that R281 defines), and it does not stop when none is left. -/
def Obligations.SoundBlocksAnswerEveryTurn : Prop :=
  ∀ s : State, Sound s → s.pending.head?.all (admissible s) = true → ∃ t, step s = .next t

/-- 20_memory.md R73, 10_state.md R39, 70_reset_and_hazards.md R281: what a sound block's step stops on, each by name. -/
def Obligations.InadmissibleTurnsStopByName : Prop :=
  ∀ (s : State) (turn : Turn) (rest : List Turn), Sound s → s.pending = turn :: rest → admissible s turn = false →
    (isPrepareTurn turn = true ∧ step s = .refused .notACommand) ∨
    ((turn = .syncR2W ∨ turn = .syncW2R) ∧ step s = .refused .noSyncAgent) ∨
    (isResetTurn turn = true ∧ step s = .fault .resetWhileRunning)

/-- 20_memory.md R76, R81, R82: the block is a first-in first-out queue of at most N − 1 frames. In a sound state each
command changes the list of undelivered frames as that queue does, and a USE delivers its head, bit for bit. -/
def Obligations.TheBlockIsABoundedQueue : Prop :=
  ∀ s : State, Sound s →
    (contents s).length = filledCount s ∧
    (∀ f t, exec (.prepare f) s = .next t →
      contents t = if fullSeen .w s = true then contents s else contents s ++ [(s.w, f)]) ∧
    (∀ t, exec .use s = .next t →
      (filledSeen .r s = 0 → contents t = contents s) ∧
      (filledSeen .r s ≠ 0 → ∃ f, contents s = (s.r, f) :: contents t ∧ t.rOut = s.rOut ++ [⟨.ok, s.r, 0, f⟩])) ∧
    (∀ t, exec .reset s = .next t → contents t = []) ∧
    (∀ i t, (∀ f, i ≠ .prepare f) → i ≠ .use → i ≠ .reset → exec i s = .next t → contents t = contents s)

/-- 20_memory.md R81, R82: over any run without a reset, from a sound state, the frames that were in the pool and the frames
of the successful PREPAREs, in order, are the frames of the successful USEs, in order, and then the frames that are in the
pool at the end. So from an empty pool, which is what every reset leaves, the k-th successful USE returns the frame of the
k-th successful PREPARE, from the same slot, and that slot is `(B + k) mod N` for the `B` at which the run began. -/
def Obligations.FramesAreDeliveredInOrder : Prop :=
  (∀ (k : Nat) (s u : State) (stored delivered : List (Nat × Frame)), Sound s →
    journal k s = some (u, stored, delivered) →
    contents s ++ stored = delivered ++ contents u ∧
      (∀ (j : Nat) (x : Nat × Frame), stored[j]? = some x → x.1 = (s.w + j) % s.cfg.n) ∧
      (contents s = [] → ∀ (j : Nat) (x : Nat × Frame), delivered[j]? = some x → stored[j]? = some x)) ∧
  (∀ s t : State, Sound s → step s = .next t → s.pending.head?.any isResetTurn = true → contents t = [] ∧ t.w = t.r)

/-- 41_queries.md R162: a PREPARE returns OK where fewer than `N − 1 − n` others came since FILLED on W returned `n`, or none
since ISFULL on W returned 0, whatever the Consumer, the Sync agent or a RESET do in between. Only a W-port PREPARE increases
the write side's count; a USE does not change `RV`, and a reset sets the count to 0. -/
def Obligations.RoomSeenStaysRoom : Prop :=
  (∀ (s t : State) (ts rest : List Turn) (f : Frame), Sound s → s.pending = ts ++ .portW 0x01 f :: rest →
    (ts.countP isPrepareTurn < s.cfg.n - 1 - filledSeen .w s ∨
      (fullSeen .w s = false ∧ ts.countP isPrepareTurn = 0)) →
    runSteps (ts.length + 1) s = .next t →
    ∃ before slot, t.wOut = before ++ [⟨.ok, slot, 0⟩]) ∧
  (∀ s t : State, Sound s → step s = .next t →
    (s.pending.head?.any isPrepareTurn = false → filledSeen .w t ≤ filledSeen .w s) ∧
    (s.pending.head?.any isUseTurn = true → t.rv = s.rv) ∧
    (s.pending.head?.any isResetTurn = true → filledSeen .w t = 0))

/-- 41_queries.md R163: a USE returns OK with a frame where fewer than `n` others came since FILLED on R returned `n`,
whatever the Producer and the Sync agent do in between, unless a reset intervenes. Only a R-port USE decreases the read
side's count, resets aside; a PREPARE does not change `WV`. -/
def Obligations.FramesSeenStayFrames : Prop :=
  (∀ (s t : State) (ts rest : List Turn), Sound s → s.pending = ts ++ .portR 0x04 :: rest →
    ts.all (fun x => !isResetTurn x) = true → ts.countP isUseTurn < filledSeen .r s →
    runSteps (ts.length + 1) s = .next t →
    ∃ before slot frame, t.rOut = before ++ [⟨.ok, slot, 0, frame⟩]) ∧
  (∀ s t : State, Sound s → step s = .next t →
    (s.pending.head?.any isUseTurn = false → s.pending.head?.any isResetTurn = false →
      filledSeen .r s ≤ filledSeen .r t) ∧
    (s.pending.head?.any isPrepareTurn = true → t.wv = s.wv))

/-- 70_reset_and_hazards.md R289, 10_state.md R39, 20_memory.md R84: a run comes to its end. A sound block whose turns to
come are all commands it has and, under SYNC_MODE = 1, no RESET, has taken them all and settled its views after two more
steps than there are turns. -/
def Obligations.RunsComeToTheirEnd : Prop :=
  ∀ s : State, Sound s →
    (∀ x ∈ s.pending, (∀ cmd f, x = .portW cmd f → cmd = 0x01 → s.cfg.Fits f) ∧
      (s.cfg.syncMode = .shared → x ≠ .syncR2W ∧ x ≠ .syncW2R) ∧
      (s.cfg.syncMode = .lagging → x ≠ .portC 0x08)) →
    ∃ t, runSteps (s.pending.length + 2) s = .next t ∧ atEnd t = true

/-- 70_reset_and_hazards.md R289 and the model's choice of log entry 3: with no turn left the views settle one by one,
under SYNC_MODE = 1, and then the block stays as it is. -/
def Obligations.IdleBlocksSettle : Prop :=
  ∀ s : State, Checked s → s.pending = [] →
    (s.cfg.syncMode = .lagging → s.rv ≠ s.r → step s = .next { s with rv := s.r }) ∧
    (s.cfg.syncMode = .lagging → s.rv = s.r → s.wv ≠ s.w → step s = .next { s with wv := s.w }) ∧
    (atEnd s = true → step s = .next s)

/-! ### Agents and the textual form -/

/-- 70_reset_and_hazards.md R285, R288: one cycle of the reference Producer, on a sound block (one undisturbed cycle and the
render as an argument: log entry 19), which notes it as running (log entry 10). With nothing held, a failed
render issues no PREPARE. A frame that is held, or else rendered, is offered: where the write side sees room it is stored
and no longer held, and elsewhere it is held and one overrun is counted. -/
def Obligations.ReferenceProducerHoldsAndRetries : Prop :=
  ∀ y : System, Sound y.block →
    (y.held = none → producerCycle none y = .next { y with block := { y.block with producerRunning := true } }) ∧
    (∀ render f, (y.held = some f ∨ (y.held = none ∧ render = some f)) → y.block.cfg.Fits f →
      ∃ y', producerCycle render y = .next y' ∧ y'.device = y.device ∧
        (fullSeen .w y.block = false → y'.held = none ∧ contents y'.block = contents y.block ++ [(y.block.w, f)] ∧
          y'.block.ocnt = y.block.ocnt) ∧
        (fullSeen .w y.block = true → y'.held = some f ∧ contents y'.block = contents y.block ∧
          y'.block.ocnt = (y.block.ocnt + 1) % 2 ^ y.block.cfg.cntW))

/-- 70_reset_and_hazards.md R285, 41_queries.md R162: the check-first Producer does not overrun in one undisturbed cycle. That
its ISFULL and PREPARE run with no other agent's turn between them is the model's choice, log entry 19; the interleaved case
is `CheckFirstNeverOverrunsInterleaved`. -/
def Obligations.CheckFirstProducerNeverOverruns : Prop :=
  ∀ (y : System) (render : Option Frame), Sound y.block → (∀ f, y.held = some f → y.block.cfg.Fits f) →
    (∀ f, render = some f → y.block.cfg.Fits f) →
    ∃ y', checkFirstCycle render y = .next y' ∧ y'.block.ocnt = y.block.ocnt

/-- 43_read_port.md R201, 70_reset_and_hazards.md R286: one callback of the reference Consumer gives the device exactly one
frame: the oldest undelivered one the read side sees, or SILENCE. The device as a list is log entry 19. -/
def Obligations.ConsumerGivesTheDeviceOneFrame : Prop :=
  ∀ y : System, Sound y.block →
    ∃ y', consumerTick y = .next y' ∧ y'.held = y.held ∧
      (filledSeen .r y.block = 0 → y'.device = y.device ++ [silence]) ∧
      (filledSeen .r y.block ≠ 0 → ∃ f, (contents y.block).head? = some (y.block.r, f) ∧ y'.device = y.device ++ [f])

/-- 30_encoding.md R106, R111: lines of text and the turns they stand for, a mnemonic on a wrong port among them, and lines
the transcriber refuses, by name. White space, the form of a literal, the symbolic frame as an argument and which refusal is
named are the model's choice, log entry 16. -/
def Obligations.LinesAreTranscribed : Prop :=
  ∀ (c : Config) (symbol : Nat → Frame), c.Fits (symbol 7) → 8 ≤ c.frameBits →
    transcribeLine c symbol ['W', ':', ' ', 'N', 'O', 'P'] = .ok (.portW 0x00 0) ∧
    transcribeLine c symbol ['R', ':', 'U', 'S', 'E', ' ', ';', 'x'] = .ok (.portR 0x04) ∧
    transcribeLine c symbol ['W', ':', ' ', 'U', 'S', 'E'] = .ok (.portW 0x04 0) ∧
    transcribeLine c symbol ['C', ':', ' ', 'R', 'E', 'S', 'E', 'T'] = .ok (.portC 0x08) ∧
    transcribeLine c symbol ['W', ':', ' ', 'P', 'R', 'E', 'P', 'A', 'R', 'E', ' ', 'F', '7'] =
      .ok (.portW 0x01 (symbol 7)) ∧
    transcribeLine c symbol ['W', ':', ' ', 'P', 'R', 'E', 'P', 'A', 'R', 'E', ' ', '0', 'x', 'A', '1'] =
      .ok (.portW 0x01 0xA1) ∧
    transcribeLine c symbol ['W', ':', ' ', 'P', 'R', 'E', 'P', 'A', 'R', 'E'] = .error .missingFrame ∧
    transcribeLine c symbol ['R', ':', ' ', 'U', 'S', 'E', ' ', 'F', '7'] = .error .unexpectedFrame ∧
    transcribeLine c symbol ['R', ':', ' ', 'P', 'U', 'S', 'H'] = .error .unknownMnemonic ∧
    transcribeLine c symbol ['D', ':', ' ', 'N', 'O', 'P'] = .error .unknownPort

/-! ### Illegal configurations -/

/-- 00_scope.md R10, 60_exceptions.md R255: an illegal configuration is refused wherever it could come in: when the host
configures a block, at every step of a block that holds it, and in every cycle of an agent around such a block. A legal one
gives the block as it stands after hardware reset. That the refused record can be written down at all is log entry 17. -/
def Obligations.IllegalConfigurationsAreRefused : Prop :=
  (∀ c : Config, (¬ c.Valid → configure c = .refused .invalidConfig) ∧
    (c.Valid → configure c = .next (State.construct c))) ∧
  (∀ (y : System) (render : Option Frame), ¬ y.block.cfg.Valid →
    (∀ m, systemStep m y = .refused .invalidConfig) ∧ step y.block = .refused .invalidConfig ∧ producerCycle render y = .refused .invalidConfig ∧
      checkFirstCycle render y = .refused .invalidConfig ∧ consumerTick y = .refused .invalidConfig)

/-! ### The agents' programs, interleaved -/

/-- 10_state.md R30, 70_reset_and_hazards.md R285, R288: the Producer's program from each of its positions, on a sound block. It
waits between cycles; at the head of a cycle it takes the held frame or renders one, or under the check-first program issues
ISFULL and goes on where that answers 0; with a frame it issues PREPARE, and on OK the cycle is over and on NONE it holds the
frame and backs off, until the next cycle or until `w_full` is 0. What the check-first program does after another answer, and
a PREPARE position with nothing held, are log entry 19. -/
def Obligations.ProducerFollowsItsProgram : Prop :=
  ∀ (y : System) (render : Option Frame), Sound y.block →
    (y.producerAt = .idle → systemStep (.producer render) y = .next y) ∧
    (y.producerAt = .idle ∨ y.producerAt = .backOff →
      systemStep .nextCycle y =
        .next { y with block := { y.block with producerRunning := true }, producerAt := .start }) ∧
    ((y.producerAt = .start ∧ y.program = .holdAndRetry) ∨ y.producerAt = .render →
      (y.held = none → render = none → systemStep (.producer render) y = .next { y with producerAt := .idle }) ∧
      (∀ f, y.held = some f ∨ (y.held = none ∧ render = some f) →
        systemStep (.producer render) y = .next { y with held := some f, producerAt := .offer })) ∧
    (y.producerAt = .start → y.program = .checkFirst →
      ∃ t, exec (.isFull .w) (noteCommand .w 0x03 y.block) = .next t ∧ systemStep (.producer render) y =
        .next { y with block := t, producerAt := if fullSeen .w y.block then .idle else .render }) ∧
    (∀ f, y.producerAt = .offer → y.held = some f → y.block.cfg.Fits f →
      ∃ t, exec (.prepare f) (noteCommand .w 0x01 y.block) = .next t ∧ systemStep (.producer render) y =
        .next (if fullSeen .w y.block then { y with block := t, producerAt := .backOff }
          else { y with block := t, held := none, producerAt := .idle })) ∧
    (y.producerAt = .backOff → systemStep (.producer render) y =
      .next (if wFull y.block then y else { y with producerAt := .start }))

/-- 10_state.md R30, 70_reset_and_hazards.md R286: the Consumer's program from each of its positions, on a sound block. A
callback starts it, it issues one USE, and it copies the response frame, or SILENCE, to the device and waits. -/
def Obligations.ConsumerFollowsItsProgram : Prop :=
  ∀ y : System, Sound y.block →
    (y.consumerAt = .idle → systemStep .consumer y = .next y ∧
      systemStep .callback y =
        .next { y with block := { y.block with consumerRunning := true }, consumerAt := .use }) ∧
    (y.consumerAt = .use → ∃ t, exec .use (noteCommand .r 0x04 y.block) = .next t ∧
      (filledSeen .r y.block = 0 → systemStep .consumer y = .next { y with block := t, consumerAt := .copyOut silence }) ∧
      (filledSeen .r y.block ≠ 0 → ∃ f, memRead y.block.slots y.block.r = some f ∧
        systemStep .consumer y = .next { y with block := t, consumerAt := .copyOut f })) ∧
    (∀ f, y.consumerAt = .copyOut f →
      systemStep .consumer y = .next { y with device := y.device ++ [f], consumerAt := .idle })

/-- 10_state.md R30, R50, R54, 20_memory.md R80: the block's own turns leave both agents where they stand, and an agent's move
leaves the other agent where it stands. No move changes which program the Producer runs. The start of a cycle or a callback
and a stop change nothing of the block but the note of who runs (log entry 10). -/
def Obligations.MovesLeaveTheOtherAgents : Prop :=
  ∀ (y y' : System) (m : Move), systemStep m y = .next y' →
    y'.program = y.program ∧
    ((∀ render, m ≠ .producer render) → m ≠ .nextCycle → m ≠ .stop .w →
      y'.held = y.held ∧ y'.producerAt = y.producerAt) ∧
    (m ≠ .consumer → m ≠ .callback → m ≠ .stop .r → y'.device = y.device ∧ y'.consumerAt = y.consumerAt) ∧
    (m = .block → step (notedBlock y) = .next y'.block) ∧
    (m = .nextCycle ∨ m = .callback ∨ (∃ p, m = .stop p) →
      ∃ a b, y'.block = { y.block with producerRunning := a, consumerRunning := b })

/-- 70_reset_and_hazards.md R285, R286: run without another move between, each program does what its whole cycle does. -/
def Obligations.UndisturbedProgramsAreTheCycles : Prop :=
  ∀ (y : System) (render : Option Frame),
    (y.producerAt = .idle → y.program = .holdAndRetry →
      runMoves [.nextCycle, .producer render, .producer render] y = producerCycle render y) ∧
    (y.producerAt = .idle → y.program = .checkFirst →
      runMoves [.nextCycle, .producer render, .producer render, .producer render] y = checkFirstCycle render y) ∧
    (y.consumerAt = .idle → runMoves [.callback, .consumer, .consumer] y = consumerTick y)

/-- 70_reset_and_hazards.md R285, 41_queries.md R162: the check-first Producer never overruns, whatever falls between its
ISFULL and its PREPARE: from any point of its program, over any moves of the system, its conditions hold on, and OCNT changes
only to the 0 of a hardware reset. So an OCNT of 0 stays 0. -/
def Obligations.CheckFirstNeverOverrunsInterleaved : Prop :=
  ∀ (ms : List Move) (y y' : System), CheckFirstSound y → runMoves ms y = .next y' →
    CheckFirstSound y' ∧ (y'.block.ocnt = y.block.ocnt ∨ y'.block.ocnt = 0)

/-- 70_reset_and_hazards.md R281 in the whole system, under SYNC_MODE = 1: a RESET is a fault while an agent stands inside its
program or has begun a cycle or a callback and was not stopped since; with both agents between two cycles and stopped it has
its effect. Where the two bits come from is log entry 10, and that a stop waits for the end of a cycle log entry 19. -/
def Obligations.ResetFaultsInsideAProgram : Prop :=
  ∀ (y : System) (rest : List Turn), Checked y.block → y.block.cfg.syncMode = .lagging →
    y.block.pending = .portC 0x08 :: rest →
    ((y.producerAt ≠ .idle ∨ y.consumerAt ≠ .idle ∨ y.block.producerRunning = true ∨ y.block.consumerRunning = true) →
      systemStep .block y = .fault .resetWhileRunning) ∧
    (∀ z, (systemStep .nextCycle y = .next z ∨ systemStep .callback y = .next z) →
      systemStep .block z = .fault .resetWhileRunning) ∧
    (y.producerAt = .idle ∨ y.producerAt = .backOff → systemStep (.stop .w) y =
      .next { y with block := { y.block with producerRunning := false }, producerAt := .idle }) ∧
    (y.consumerAt = .idle → systemStep (.stop .r) y =
      .next { y with block := { y.block with consumerRunning := false } }) ∧
    (y.producerAt = .idle → y.consumerAt = .idle → y.block.producerRunning = false → y.block.consumerRunning = false →
      ∃ t, exec .reset { y.block with pending := rest } = .next t ∧ systemStep .block y = .next { y with block := t })
end

