-- ==== Sys2Proof/Laws/Decode.lean ====
section
/-! SUPPORT. The fields of a command word: an encoded word has RSV zero and its own OP, and the two fields make the word. -/

namespace Sys2Proof

@[simp] theorem rsvField_commandWord (op : Op) : rsvField (commandWord op) = 0 := by cases op <;> decide

@[simp] theorem opField_commandWord (op : Op) : opField (commandWord op) = opBits op := by cases op <;> decide

@[simp] theorem opOfBits_opBits (op : Op) : opOfBits (opBits op) = some op := by cases op <;> decide

/-- An OP that selects an operation is that operation's OP. -/
theorem opBits_of_opOfBits : ∀ (b : BitVec 4) (op : Op), opOfBits b = some op → b = opBits op := by
  have h : ∀ b : BitVec 4, (opOfBits b).all (fun op => decide (b = opBits op)) = true := by decide
  intro b op e
  have := h b
  rw [e] at this
  simpa using this

/-- A word is its two fields. -/
theorem fields_append : ∀ cmd : Byte, (rsvField cmd ++ opField cmd : BitVec 8) = cmd := by decide

/-- A word with RSV zero is the word of its operation. -/
theorem commandWord_of_fields {cmd : Byte} {op : Op} (h : rsvField cmd = 0) (e : opField cmd = opBits op) :
    cmd = commandWord op := by
  rw [← fields_append cmd, h, e]
  rfl

end Sys2Proof
end

