-- ==== Sys2Proof/Laws/State.lean ====
section
/-! SUPPORT. For every named update of the state, one lemma per field it leaves or writes, so that no later proof unfolds a
record update. -/

namespace Sys2Proof.Machine

variable (s : State) (p : Port) (d : DataPort) (st : Status) (slot : Nat) (v : Value) (f : Frame) (cmd : Byte) (on : Bool)

section Respond

@[simp] theorem respond_cfg : (respond p st slot v f s).cfg = s.cfg := by cases p <;> rfl
@[simp] theorem respond_w : (respond p st slot v f s).w = s.w := by cases p <;> rfl
@[simp] theorem respond_r : (respond p st slot v f s).r = s.r := by cases p <;> rfl
@[simp] theorem respond_rv : (respond p st slot v f s).rv = s.rv := by cases p <;> rfl
@[simp] theorem respond_wv : (respond p st slot v f s).wv = s.wv := by cases p <;> rfl
@[simp] theorem respond_ocnt : (respond p st slot v f s).ocnt = s.ocnt := by cases p <;> rfl
@[simp] theorem respond_ucnt : (respond p st slot v f s).ucnt = s.ucnt := by cases p <;> rfl
@[simp] theorem respond_slots : (respond p st slot v f s).slots = s.slots := by cases p <;> rfl
@[simp] theorem respond_producerRunning : (respond p st slot v f s).producerRunning = s.producerRunning := by cases p <;> rfl
@[simp] theorem respond_consumerRunning : (respond p st slot v f s).consumerRunning = s.consumerRunning := by cases p <;> rfl
@[simp] theorem respond_pending : (respond p st slot v f s).pending = s.pending := by cases p <;> rfl

@[simp] theorem respond_w_wOut : (respond .w st slot v f s).wOut = s.wOut ++ [⟨st, slot, v⟩] := rfl
@[simp] theorem respond_w_rOut : (respond .w st slot v f s).rOut = s.rOut := rfl
@[simp] theorem respond_w_cOut : (respond .w st slot v f s).cOut = s.cOut := rfl
@[simp] theorem respond_r_wOut : (respond .r st slot v f s).wOut = s.wOut := rfl
@[simp] theorem respond_r_rOut : (respond .r st slot v f s).rOut = s.rOut ++ [⟨st, slot, v, f⟩] := rfl
@[simp] theorem respond_r_cOut : (respond .r st slot v f s).cOut = s.cOut := rfl
@[simp] theorem respond_c_wOut : (respond .c st slot v f s).wOut = s.wOut := rfl
@[simp] theorem respond_c_rOut : (respond .c st slot v f s).rOut = s.rOut := rfl
@[simp] theorem respond_c_cOut : (respond .c st slot v f s).cOut = s.cOut ++ [⟨st, v⟩] := rfl

end Respond

section Raise

@[simp] theorem raise_cfg (c : Condition) : (raise c s).cfg = s.cfg := by
  cases c <;> simp [raise]
@[simp] theorem raise_w (c : Condition) : (raise c s).w = s.w := by
  cases c <;> simp [raise]
@[simp] theorem raise_r (c : Condition) : (raise c s).r = s.r := by
  cases c <;> simp [raise]
@[simp] theorem raise_rv (c : Condition) : (raise c s).rv = s.rv := by
  cases c <;> simp [raise]
@[simp] theorem raise_wv (c : Condition) : (raise c s).wv = s.wv := by
  cases c <;> simp [raise]
@[simp] theorem raise_slots (c : Condition) : (raise c s).slots = s.slots := by
  cases c <;> simp [raise]
@[simp] theorem raise_producerRunning (c : Condition) : (raise c s).producerRunning = s.producerRunning := by
  cases c <;> simp [raise]
@[simp] theorem raise_consumerRunning (c : Condition) : (raise c s).consumerRunning = s.consumerRunning := by
  cases c <;> simp [raise]
@[simp] theorem raise_pending (c : Condition) : (raise c s).pending = s.pending := by
  cases c <;> simp [raise]

@[simp] theorem raise_overrun_ocnt : (raise .overrun s).ocnt = countUp s.cfg.cntW s.ocnt := rfl
@[simp] theorem raise_overrun_ucnt : (raise .overrun s).ucnt = s.ucnt := rfl
@[simp] theorem raise_overrun_wOut : (raise .overrun s).wOut = s.wOut ++ [⟨.none, 0, 0⟩] := rfl
@[simp] theorem raise_overrun_rOut : (raise .overrun s).rOut = s.rOut := rfl
@[simp] theorem raise_overrun_cOut : (raise .overrun s).cOut = s.cOut := rfl
@[simp] theorem raise_underrun_ocnt : (raise .underrun s).ocnt = s.ocnt := rfl
@[simp] theorem raise_underrun_ucnt : (raise .underrun s).ucnt = countUp s.cfg.cntW s.ucnt := rfl
@[simp] theorem raise_underrun_wOut : (raise .underrun s).wOut = s.wOut := rfl
@[simp] theorem raise_underrun_rOut : (raise .underrun s).rOut = s.rOut ++ [⟨.none, 0, 0, silence⟩] := rfl
@[simp] theorem raise_underrun_cOut : (raise .underrun s).cOut = s.cOut := rfl
@[simp] theorem raise_illegal_ocnt : (raise (.illegal p) s).ocnt = s.ocnt := by simp [raise]
@[simp] theorem raise_illegal_ucnt : (raise (.illegal p) s).ucnt = s.ucnt := by simp [raise]

end Raise

section Cursors

@[simp] theorem alignCursors_cfg : (alignCursors s).cfg = s.cfg := by
  unfold alignCursors; split <;> rfl
@[simp] theorem alignCursors_rv : (alignCursors s).rv = s.rv := by
  unfold alignCursors; split <;> rfl
@[simp] theorem alignCursors_wv : (alignCursors s).wv = s.wv := by
  unfold alignCursors; split <;> rfl
@[simp] theorem alignCursors_ocnt : (alignCursors s).ocnt = s.ocnt := by
  unfold alignCursors; split <;> rfl
@[simp] theorem alignCursors_ucnt : (alignCursors s).ucnt = s.ucnt := by
  unfold alignCursors; split <;> rfl
@[simp] theorem alignCursors_slots : (alignCursors s).slots = s.slots := by
  unfold alignCursors; split <;> rfl
@[simp] theorem alignCursors_producerRunning : (alignCursors s).producerRunning = s.producerRunning := by
  unfold alignCursors; split <;> rfl
@[simp] theorem alignCursors_consumerRunning : (alignCursors s).consumerRunning = s.consumerRunning := by
  unfold alignCursors; split <;> rfl
@[simp] theorem alignCursors_pending : (alignCursors s).pending = s.pending := by
  unfold alignCursors; split <;> rfl
@[simp] theorem alignCursors_wOut : (alignCursors s).wOut = s.wOut := by
  unfold alignCursors; split <;> rfl
@[simp] theorem alignCursors_rOut : (alignCursors s).rOut = s.rOut := by
  unfold alignCursors; split <;> rfl
@[simp] theorem alignCursors_cOut : (alignCursors s).cOut = s.cOut := by
  unfold alignCursors; split <;> rfl
@[simp] theorem alignViews_cfg : (alignViews s).cfg = s.cfg := by
  unfold alignViews; split <;> rfl
@[simp] theorem alignViews_w : (alignViews s).w = s.w := by
  unfold alignViews; split <;> rfl
@[simp] theorem alignViews_r : (alignViews s).r = s.r := by
  unfold alignViews; split <;> rfl
@[simp] theorem alignViews_ocnt : (alignViews s).ocnt = s.ocnt := by
  unfold alignViews; split <;> rfl
@[simp] theorem alignViews_ucnt : (alignViews s).ucnt = s.ucnt := by
  unfold alignViews; split <;> rfl
@[simp] theorem alignViews_slots : (alignViews s).slots = s.slots := by
  unfold alignViews; split <;> rfl
@[simp] theorem alignViews_producerRunning : (alignViews s).producerRunning = s.producerRunning := by
  unfold alignViews; split <;> rfl
@[simp] theorem alignViews_consumerRunning : (alignViews s).consumerRunning = s.consumerRunning := by
  unfold alignViews; split <;> rfl
@[simp] theorem alignViews_pending : (alignViews s).pending = s.pending := by
  unfold alignViews; split <;> rfl
@[simp] theorem alignViews_wOut : (alignViews s).wOut = s.wOut := by
  unfold alignViews; split <;> rfl
@[simp] theorem alignViews_rOut : (alignViews s).rOut = s.rOut := by
  unfold alignViews; split <;> rfl
@[simp] theorem alignViews_cOut : (alignViews s).cOut = s.cOut := by
  unfold alignViews; split <;> rfl
@[simp] theorem resetCursors_cfg : (resetCursors s).cfg = s.cfg := by simp [resetCursors]
@[simp] theorem resetCursors_ocnt : (resetCursors s).ocnt = s.ocnt := by simp [resetCursors]
@[simp] theorem resetCursors_ucnt : (resetCursors s).ucnt = s.ucnt := by simp [resetCursors]
@[simp] theorem resetCursors_slots : (resetCursors s).slots = s.slots := by simp [resetCursors]
@[simp] theorem resetCursors_producerRunning : (resetCursors s).producerRunning = s.producerRunning := by simp [resetCursors]
@[simp] theorem resetCursors_consumerRunning : (resetCursors s).consumerRunning = s.consumerRunning := by simp [resetCursors]
@[simp] theorem resetCursors_pending : (resetCursors s).pending = s.pending := by simp [resetCursors]
@[simp] theorem resetCursors_wOut : (resetCursors s).wOut = s.wOut := by simp [resetCursors]
@[simp] theorem resetCursors_rOut : (resetCursors s).rOut = s.rOut := by simp [resetCursors]
@[simp] theorem resetCursors_cOut : (resetCursors s).cOut = s.cOut := by simp [resetCursors]

/-- RESET leaves both cursors equal. -/
theorem resetCursors_w : (resetCursors s).w = (resetCursors s).r := by
  unfold resetCursors alignCursors
  cases s.cfg.resetCursorMode <;> simp

/-- Where RESET leaves `R`. -/
theorem resetCursors_r :
    (resetCursors s).r = match s.cfg.resetCursorMode with
      | .align => s.r
      | .zero => 0 := by
  unfold resetCursors alignCursors
  cases s.cfg.resetCursorMode <;> simp

/-- RESET leaves each view at its cursor where there are views. -/
theorem resetCursors_views (h : s.cfg.syncMode = .lagging) :
    (resetCursors s).rv = (resetCursors s).r ∧ (resetCursors s).wv = (resetCursors s).w := by
  unfold resetCursors alignViews
  simp [h]

end Cursors

section Events

@[simp] theorem hardwareReset_cfg : (hardwareReset s).cfg = s.cfg := rfl
@[simp] theorem hardwareReset_w : (hardwareReset s).w = 0 := rfl
@[simp] theorem hardwareReset_r : (hardwareReset s).r = 0 := rfl
@[simp] theorem hardwareReset_rv : (hardwareReset s).rv = 0 := rfl
@[simp] theorem hardwareReset_wv : (hardwareReset s).wv = 0 := rfl
@[simp] theorem hardwareReset_ocnt : (hardwareReset s).ocnt = 0 := rfl
@[simp] theorem hardwareReset_ucnt : (hardwareReset s).ucnt = 0 := rfl
@[simp] theorem hardwareReset_slots : (hardwareReset s).slots = [] := rfl
@[simp] theorem hardwareReset_producerRunning : (hardwareReset s).producerRunning = s.producerRunning := rfl
@[simp] theorem hardwareReset_consumerRunning : (hardwareReset s).consumerRunning = s.consumerRunning := rfl
@[simp] theorem hardwareReset_pending : (hardwareReset s).pending = s.pending := rfl
@[simp] theorem hardwareReset_wOut : (hardwareReset s).wOut = s.wOut := rfl
@[simp] theorem hardwareReset_rOut : (hardwareReset s).rOut = s.rOut := rfl
@[simp] theorem hardwareReset_cOut : (hardwareReset s).cOut = s.cOut := rfl
@[simp] theorem syncReadToWrite_cfg : (syncReadToWrite s).cfg = s.cfg := rfl
@[simp] theorem syncReadToWrite_w : (syncReadToWrite s).w = s.w := rfl
@[simp] theorem syncReadToWrite_r : (syncReadToWrite s).r = s.r := rfl
@[simp] theorem syncReadToWrite_rv : (syncReadToWrite s).rv = s.r := rfl
@[simp] theorem syncReadToWrite_wv : (syncReadToWrite s).wv = s.wv := rfl
@[simp] theorem syncReadToWrite_ocnt : (syncReadToWrite s).ocnt = s.ocnt := rfl
@[simp] theorem syncReadToWrite_ucnt : (syncReadToWrite s).ucnt = s.ucnt := rfl
@[simp] theorem syncReadToWrite_slots : (syncReadToWrite s).slots = s.slots := rfl
@[simp] theorem syncReadToWrite_producerRunning : (syncReadToWrite s).producerRunning = s.producerRunning := rfl
@[simp] theorem syncReadToWrite_consumerRunning : (syncReadToWrite s).consumerRunning = s.consumerRunning := rfl
@[simp] theorem syncReadToWrite_pending : (syncReadToWrite s).pending = s.pending := rfl
@[simp] theorem syncReadToWrite_wOut : (syncReadToWrite s).wOut = s.wOut := rfl
@[simp] theorem syncReadToWrite_rOut : (syncReadToWrite s).rOut = s.rOut := rfl
@[simp] theorem syncReadToWrite_cOut : (syncReadToWrite s).cOut = s.cOut := rfl
@[simp] theorem syncWriteToRead_cfg : (syncWriteToRead s).cfg = s.cfg := rfl
@[simp] theorem syncWriteToRead_w : (syncWriteToRead s).w = s.w := rfl
@[simp] theorem syncWriteToRead_r : (syncWriteToRead s).r = s.r := rfl
@[simp] theorem syncWriteToRead_rv : (syncWriteToRead s).rv = s.rv := rfl
@[simp] theorem syncWriteToRead_wv : (syncWriteToRead s).wv = s.w := rfl
@[simp] theorem syncWriteToRead_ocnt : (syncWriteToRead s).ocnt = s.ocnt := rfl
@[simp] theorem syncWriteToRead_ucnt : (syncWriteToRead s).ucnt = s.ucnt := rfl
@[simp] theorem syncWriteToRead_slots : (syncWriteToRead s).slots = s.slots := rfl
@[simp] theorem syncWriteToRead_producerRunning : (syncWriteToRead s).producerRunning = s.producerRunning := rfl
@[simp] theorem syncWriteToRead_consumerRunning : (syncWriteToRead s).consumerRunning = s.consumerRunning := rfl
@[simp] theorem syncWriteToRead_pending : (syncWriteToRead s).pending = s.pending := rfl
@[simp] theorem syncWriteToRead_wOut : (syncWriteToRead s).wOut = s.wOut := rfl
@[simp] theorem syncWriteToRead_rOut : (syncWriteToRead s).rOut = s.rOut := rfl
@[simp] theorem syncWriteToRead_cOut : (syncWriteToRead s).cOut = s.cOut := rfl
@[simp] theorem setRunning_cfg : (setRunning d on s).cfg = s.cfg := by cases d <;> rfl
@[simp] theorem setRunning_w : (setRunning d on s).w = s.w := by cases d <;> rfl
@[simp] theorem setRunning_r : (setRunning d on s).r = s.r := by cases d <;> rfl
@[simp] theorem setRunning_rv : (setRunning d on s).rv = s.rv := by cases d <;> rfl
@[simp] theorem setRunning_wv : (setRunning d on s).wv = s.wv := by cases d <;> rfl
@[simp] theorem setRunning_ocnt : (setRunning d on s).ocnt = s.ocnt := by cases d <;> rfl
@[simp] theorem setRunning_ucnt : (setRunning d on s).ucnt = s.ucnt := by cases d <;> rfl
@[simp] theorem setRunning_slots : (setRunning d on s).slots = s.slots := by cases d <;> rfl
@[simp] theorem setRunning_pending : (setRunning d on s).pending = s.pending := by cases d <;> rfl
@[simp] theorem setRunning_wOut : (setRunning d on s).wOut = s.wOut := by cases d <;> rfl
@[simp] theorem setRunning_rOut : (setRunning d on s).rOut = s.rOut := by cases d <;> rfl
@[simp] theorem setRunning_cOut : (setRunning d on s).cOut = s.cOut := by cases d <;> rfl
@[simp] theorem noteCommand_cfg : (noteCommand d cmd s).cfg = s.cfg := by
  unfold noteCommand; split <;> simp
@[simp] theorem noteCommand_w : (noteCommand d cmd s).w = s.w := by
  unfold noteCommand; split <;> simp
@[simp] theorem noteCommand_r : (noteCommand d cmd s).r = s.r := by
  unfold noteCommand; split <;> simp
@[simp] theorem noteCommand_rv : (noteCommand d cmd s).rv = s.rv := by
  unfold noteCommand; split <;> simp
@[simp] theorem noteCommand_wv : (noteCommand d cmd s).wv = s.wv := by
  unfold noteCommand; split <;> simp
@[simp] theorem noteCommand_ocnt : (noteCommand d cmd s).ocnt = s.ocnt := by
  unfold noteCommand; split <;> simp
@[simp] theorem noteCommand_ucnt : (noteCommand d cmd s).ucnt = s.ucnt := by
  unfold noteCommand; split <;> simp
@[simp] theorem noteCommand_slots : (noteCommand d cmd s).slots = s.slots := by
  unfold noteCommand; split <;> simp
@[simp] theorem noteCommand_pending : (noteCommand d cmd s).pending = s.pending := by
  unfold noteCommand; split <;> simp
@[simp] theorem noteCommand_wOut : (noteCommand d cmd s).wOut = s.wOut := by
  unfold noteCommand; split <;> simp
@[simp] theorem noteCommand_rOut : (noteCommand d cmd s).rOut = s.rOut := by
  unfold noteCommand; split <;> simp
@[simp] theorem noteCommand_cOut : (noteCommand d cmd s).cOut = s.cOut := by
  unfold noteCommand; split <;> simp
@[simp] theorem storeFrame_cfg : (storeFrame f s).cfg = s.cfg := rfl
@[simp] theorem storeFrame_r : (storeFrame f s).r = s.r := rfl
@[simp] theorem storeFrame_rv : (storeFrame f s).rv = s.rv := rfl
@[simp] theorem storeFrame_wv : (storeFrame f s).wv = s.wv := rfl
@[simp] theorem storeFrame_ocnt : (storeFrame f s).ocnt = s.ocnt := rfl
@[simp] theorem storeFrame_ucnt : (storeFrame f s).ucnt = s.ucnt := rfl
@[simp] theorem storeFrame_producerRunning : (storeFrame f s).producerRunning = s.producerRunning := rfl
@[simp] theorem storeFrame_consumerRunning : (storeFrame f s).consumerRunning = s.consumerRunning := rfl
@[simp] theorem storeFrame_pending : (storeFrame f s).pending = s.pending := rfl
@[simp] theorem storeFrame_w : (storeFrame f s).w = incN s.cfg.n s.w := rfl
@[simp] theorem storeFrame_slots : (storeFrame f s).slots = memWrite s.slots s.w f := rfl
@[simp] theorem storeFrame_wOut : (storeFrame f s).wOut = s.wOut ++ [⟨.ok, s.w, 0⟩] := rfl
@[simp] theorem storeFrame_rOut : (storeFrame f s).rOut = s.rOut := rfl
@[simp] theorem storeFrame_cOut : (storeFrame f s).cOut = s.cOut := rfl
@[simp] theorem deliverFrame_cfg : (deliverFrame f s).cfg = s.cfg := rfl
@[simp] theorem deliverFrame_w : (deliverFrame f s).w = s.w := rfl
@[simp] theorem deliverFrame_rv : (deliverFrame f s).rv = s.rv := rfl
@[simp] theorem deliverFrame_wv : (deliverFrame f s).wv = s.wv := rfl
@[simp] theorem deliverFrame_ocnt : (deliverFrame f s).ocnt = s.ocnt := rfl
@[simp] theorem deliverFrame_ucnt : (deliverFrame f s).ucnt = s.ucnt := rfl
@[simp] theorem deliverFrame_slots : (deliverFrame f s).slots = s.slots := rfl
@[simp] theorem deliverFrame_producerRunning : (deliverFrame f s).producerRunning = s.producerRunning := rfl
@[simp] theorem deliverFrame_consumerRunning : (deliverFrame f s).consumerRunning = s.consumerRunning := rfl
@[simp] theorem deliverFrame_pending : (deliverFrame f s).pending = s.pending := rfl
@[simp] theorem deliverFrame_r : (deliverFrame f s).r = incN s.cfg.n s.r := rfl
@[simp] theorem deliverFrame_wOut : (deliverFrame f s).wOut = s.wOut := rfl
@[simp] theorem deliverFrame_rOut : (deliverFrame f s).rOut = s.rOut ++ [⟨.ok, s.r, 0, f⟩] := rfl
@[simp] theorem deliverFrame_cOut : (deliverFrame f s).cOut = s.cOut := rfl

end Events

end Sys2Proof.Machine
end

