-- ==== Sys2Proof/Laws/Ops.lean ====
section
/-! SUPPORT. What each shared operation can do, said once: if it answers a next state, then one of these cases holds. The last
lemma, `step_effect`, says it of the step; the proofs about steps cite it and do not unfold the step. -/

namespace Sys2Proof.Machine

variable {s t : State}

theorem execPrepare_cases {f : Frame} (h : execPrepare f s = .next t) :
    (fullSeen .w s = true ∧ t = raise .overrun s) ∨ (fullSeen .w s = false ∧ t = storeFrame f s) := by
  unfold execPrepare at h
  split at h
  · rename_i hf; cases h; exact .inl ⟨hf, rfl⟩
  · rename_i hf; cases h; exact .inr ⟨by simpa using hf, rfl⟩

theorem execUse_cases (h : execUse s = .next t) :
    (filledSeen .r s = 0 ∧ t = raise .underrun s) ∨
      (filledSeen .r s ≠ 0 ∧ ∃ f, memRead s.slots s.r = some f ∧ t = deliverFrame f s) := by
  unfold execUse at h
  split at h
  · rename_i he; cases h; exact .inl ⟨he, rfl⟩
  · rename_i he
    split at h
    · rename_i f hf; cases h; exact .inr ⟨he, f, hf, rfl⟩
    · cases h

theorem execReset_cases (h : execReset s = .next t) :
    (s.cfg.syncMode = .lagging → agentsRunning s = false) ∧
      t = respond .c .ok 0 0 zeroFrame (resetCursors s) := by
  unfold execReset at h
  split at h
  · cases h
  · rename_i hq; cases h; exact ⟨fun hl => by simpa [hl] using hq, rfl⟩

/-! The same, forward: what answers each case. -/

theorem filledSeen_w : filledSeen .w s = subN s.cfg.n s.w (readIndexSeen s) := rfl

theorem filledSeen_r : filledSeen .r s = subN s.cfg.n (writeIndexSeen s) s.r := rfl

theorem fullSeen_iff (p : DataPort) : fullSeen p s = true ↔ s.cfg.n - 1 ≤ filledSeen p s := by simp [fullSeen]

theorem fullSeen_false_iff (p : DataPort) : fullSeen p s = false ↔ filledSeen p s < s.cfg.n - 1 := by
  rw [← Nat.not_le, ← fullSeen_iff, Bool.not_eq_true]

theorem execPrepare_full {f : Frame} (h : fullSeen .w s = true) : execPrepare f s = .next (raise .overrun s) := if_pos h

theorem execPrepare_room {f : Frame} (h : fullSeen .w s = false) : execPrepare f s = .next (storeFrame f s) :=
  if_neg (by simp [h])

theorem execUse_empty (h : filledSeen .r s = 0) : execUse s = .next (raise .underrun s) := if_pos h

theorem execUse_frame {f : Frame} (h : filledSeen .r s ≠ 0) (hf : memRead s.slots s.r = some f) :
    execUse s = .next (deliverFrame f s) := by
  unfold execUse
  rw [if_neg h, hf]

theorem execUse_unwritten (h : filledSeen .r s ≠ 0) (hf : memRead s.slots s.r = none) :
    execUse s = .fault (.unwrittenSlot s.r) := by
  unfold execUse
  rw [if_neg h, hf]

theorem execReset_quiet (h : s.cfg.syncMode = .lagging → agentsRunning s = false) :
    execReset s = .next (respond .c .ok 0 0 zeroFrame (resetCursors s)) :=
  if_neg fun hh => by simp [h hh.1] at hh

/-- The words that are commands, port by port. -/
theorem decode_ok {c : Config} {p : Port} {cmd : Byte} {f : Frame} {i : Instr} (h : decode c p cmd f = .ok i) :
    cmd = commandWord (opOf i) ∧ p = i.port ∧ (∀ g, i = .prepare g → g = f ∧ c.Fits f) := by
  unfold decode at h
  split at h
  · rename_i hr
    split at h
    · cases h
    · rename_i op ho
      have hc := commandWord_of_fields hr (opBits_of_opOfBits _ _ ho)
      cases op <;> cases p <;> simp only [assemble] at h <;> first
        | (cases h; done)
        | (cases h; exact ⟨hc, rfl, by simp⟩)
        | (split at h
           · rename_i hf; cases h; exact ⟨hc, rfl, fun g hg => by cases hg; exact ⟨rfl, hf⟩⟩
           · cases h)
  · cases h

/-- A command word on one of its ports decodes to the command. -/
theorem decode_commandWord (c : Config) (p : Port) (op : Op) (f : Frame) :
    decode c p (commandWord op) f = assemble c op p f := by
  simp [decode]

/-- A word whose operand has another width is a PREPARE word on W. -/
theorem decode_frameWidth {c : Config} {p : Port} {cmd : Byte} {f : Frame}
    (h : decode c p cmd f = .error .frameWidth) : p = .w ∧ cmd = commandWord .prepare ∧ ¬ c.Fits f := by
  unfold decode at h
  split at h
  · rename_i hr
    split at h
    · cases h
    · rename_i op ho
      have hc := commandWord_of_fields hr (opBits_of_opOfBits _ _ ho)
      cases op <;> cases p <;> simp only [assemble] at h <;> first
        | cases h
        | (split at h
           · cases h
           · rename_i hf; exact ⟨rfl, hc, hf⟩)
  · cases h

theorem runWord_cases {p : Port} {cmd : Byte} {f : Frame} (h : runWord p cmd f s = .next t) :
    (∃ i, decode s.cfg p cmd f = .ok i ∧ exec i s = .next t) ∨
      (∃ e, e ≠ .frameWidth ∧ decode s.cfg p cmd f = .error e ∧ t = raise (.illegal p) s) := by
  unfold runWord at h
  split at h
  · rename_i i hi; exact .inl ⟨i, hi, h⟩
  · rename_i he; cases h; exact .inr ⟨_, by decide, he, rfl⟩
  · rename_i he; cases h; exact .inr ⟨_, by decide, he, rfl⟩
  · rename_i he; cases h; exact .inr ⟨_, by decide, he, rfl⟩
  · cases h

theorem step_cases (h : step s = .next t) :
    s.cfg.Valid ∧ cursorsInRange s = true ∧ statusesProduced s = true ∧
      ((s.pending = [] ∧ t = settle s) ∨
        ∃ turn rest, s.pending = turn :: rest ∧ runTurn turn { s with pending := rest } = .next t) := by
  unfold step takeStep at h
  split at h
  · cases h
  · rename_i hv
    split at h
    · cases h
    · rename_i hc
      split at h
      · cases h
      · rename_i hp
        refine ⟨Decidable.not_not.mp hv, by simpa using hc, by simpa using hp, ?_⟩
        unfold runNext at h
        split at h
        · rename_i he; cases h; exact .inl ⟨he, rfl⟩
        · rename_i turn rest he; exact .inr ⟨turn, rest, he, h⟩

/-- A step from a state that passes the block's checks takes the next turn. -/
theorem step_eq_runNext (hv : s.cfg.Valid) (hc : cursorsInRange s = true) (hp : statusesProduced s = true) :
    step s = runNext s := by
  unfold step takeStep
  rw [if_neg (not_not.mpr hv), if_neg (by simp [hc]), if_neg (by simp [hp])]

@[simp] theorem runSteps_zero : runSteps 0 s = .next s := rfl

/-- A run of one step more. -/
theorem runSteps_succ (k : Nat) :
    runSteps (k + 1) s = match step s with
      | .next t => runSteps k t
      | .fault r => .fault r
      | .refused r => .refused r := by
  have run_succ (M : Host.Core) (a : M.State) :
      M.run (k + 1) a = match M.step a with
        | .next b => M.run k b
        | .fault r => .fault r
        | .refused r => .refused r := by
    cases h : M.step a <;> simp [Host.Core.run, h]
  refine (run_succ Sys2Proof.core s).trans ?_
  have h : Sys2Proof.core.step s = step s := rfl
  rw [h]
  cases step s <;> rfl

/-- The block of `s` with other turns to come and other agents running. -/
def SameBlock (s u : State) : Prop :=
  ∃ ts a b, u = { s with pending := ts, producerRunning := a, consumerRunning := b }

theorem SameBlock.set {rest : List Turn} (d : DataPort) (on : Bool) :
    SameBlock s (setRunning d on { s with pending := rest }) := by
  cases d
  · exact ⟨rest, on, _, rfl⟩
  · exact ⟨rest, _, on, rfl⟩

theorem SameBlock.note {rest : List Turn} (d : DataPort) (cmd : Byte) :
    SameBlock s (noteCommand d cmd { s with pending := rest }) := by
  unfold noteCommand
  split
  · exact .set d true
  · exact ⟨rest, _, _, rfl⟩

/-- An ILLEGAL word notes no agent (60_exceptions.md R241): the word that notes one is legal on its port. -/
theorem noteCommand_of_illegal {d : DataPort} {cmd : Byte} (h : illegalWord d.port cmd = true) :
    noteCommand d cmd s = s := by
  have hl : ∀ x ∈ agentWords d, illegalWord d.port x = false := by cases d <;> decide
  exact if_neg fun hc => by rw [hl cmd hc] at h; cases h

/-- What one step does to the block, by the turn it took (`none`: no turn was left). -/
inductive Effect : Option Turn → State → State → Prop
  | nothing {o u} (h : o = none ∨ ∃ d on, o = some (.running d on)) : Effect o u u
  | answered {turn u} (p : Port) (st : Status) (v : Value) (hst : st = .ok ∨ st = .illegal)
      (hp : isPrepareTurn turn = false) (hu : isUseTurn turn = false) (hr : isResetTurn turn = false) :
      Effect (some turn) u (respond p st 0 v zeroFrame u)
  | overrun {u} (f : Frame) (h : fullSeen .w u = true) :
      Effect (some (.portW (commandWord .prepare) f)) u (raise .overrun u)
  | stored {u} (f : Frame) (h : fullSeen .w u = false) (hf : u.cfg.Fits f) :
      Effect (some (.portW (commandWord .prepare) f)) u (storeFrame f u)
  | underrun {u} (h : filledSeen .r u = 0) : Effect (some (.portR (commandWord .use))) u (raise .underrun u)
  | delivered {u} (f : Frame) (h : filledSeen .r u ≠ 0) (hf : memRead u.slots u.r = some f) :
      Effect (some (.portR (commandWord .use))) u (deliverFrame f u)
  | reset {u} (h : u.cfg.syncMode = .lagging → agentsRunning u = false) :
      Effect (some (.portC (commandWord .reset))) u (respond .c .ok 0 0 zeroFrame (resetCursors u))
  | rst {u} : Effect (some .rst) u (hardwareReset u)
  | readToWrite {o u} (h : o = none ∨ o = some .syncR2W) (hl : u.cfg.syncMode = .lagging) :
      Effect o u (syncReadToWrite u)
  | writeToRead {o u} (h : o = none ∨ o = some .syncW2R) (hl : u.cfg.syncMode = .lagging) :
      Effect o u (syncWriteToRead u)

/-- The turn of a transaction on a port with its word and, on W, its frame. -/
theorem effect_runWord {p : Port} {cmd : Byte} {f : Frame} (h : runWord p cmd f s = .next t) :
    Effect (some (turnOf ⟨p, cmd, f⟩)) s t := by
  rcases runWord_cases h with ⟨i, hi, he⟩ | ⟨e, hne, hd, rfl⟩
  · obtain ⟨rfl, rfl, hf⟩ := decode_ok hi
    cases i with
    | nop p => cases he; cases p <;> exact .answered _ _ _ (.inl rfl) rfl rfl rfl
    | prepare g =>
      obtain ⟨rfl, hfit⟩ := hf g rfl
      rcases execPrepare_cases he with ⟨hn, rfl⟩ | ⟨hn, rfl⟩
      · exact .overrun _ hn
      · exact .stored _ hn hfit
    | filled d => cases he; cases d <;> exact .answered _ _ _ (.inl rfl) rfl rfl rfl
    | isFull d => cases he; cases d <;> exact .answered _ _ _ (.inl rfl) rfl rfl rfl
    | use =>
      rcases execUse_cases he with ⟨hn, rfl⟩ | ⟨hn, g, hg, rfl⟩
      · exact .underrun hn
      · exact .delivered g hn hg
    | reset =>
      obtain ⟨hq, rfl⟩ := execReset_cases he
      exact .reset hq
    | rdUnderruns => cases he; exact .answered .c _ _ (.inl rfl) rfl rfl rfl
    | rdOverruns => cases he; exact .answered .c _ _ (.inl rfl) rfl rfl rfl
  · have no {op : Op} (ha : assemble s.cfg op p f ≠ .error e) : cmd ≠ commandWord op := by
      rintro rfl
      rw [decode_commandWord] at hd
      exact ha hd
    refine .answered p .illegal 0 (.inr rfl) ?_ ?_ ?_
    · cases p
      · refine decide_eq_false (no ?_)
        simp only [assemble]
        split
        · simp
        · simp [Ne.symm hne]
      · rfl
      · rfl
    · cases p
      · rfl
      · exact decide_eq_false (no (by simp [assemble]))
      · rfl
    · cases p
      · rfl
      · rfl
      · exact decide_eq_false (no (by simp [assemble]))

/-- What a step can do: an effect on the block as it stood, with the turn taken off the list and the agent that issued it
noted. -/
theorem step_effect (h : step s = .next t) : ∃ u, SameBlock s u ∧ Effect s.pending.head? u t := by
  obtain ⟨-, -, -, ⟨he, rfl⟩ | ⟨turn, rest, he, hr⟩⟩ := step_cases h
  · refine ⟨s, ⟨s.pending, _, _, rfl⟩, ?_⟩
    rw [he]
    unfold settle
    split
    · rename_i hs; exact .readToWrite (.inl rfl) (by simp [syncR2WEnabled] at hs; exact hs.1)
    · split
      · rename_i hs; exact .writeToRead (.inl rfl) (by simp [syncW2REnabled] at hs; exact hs.1)
      · exact .nothing (.inl rfl)
  · rw [he]
    cases turn with
    | portW cmd f => exact ⟨_, .note .w cmd, effect_runWord hr⟩
    | portR cmd => exact ⟨_, .note .r cmd, effect_runWord hr⟩
    | portC cmd => exact ⟨_, ⟨rest, _, _, rfl⟩, effect_runWord hr⟩
    | syncR2W =>
      simp only [runTurn, runSync] at hr
      split at hr
      · cases hr
      · rename_i hl; cases hr; exact ⟨_, ⟨rest, _, _, rfl⟩, .readToWrite (.inr rfl) hl⟩
    | syncW2R =>
      simp only [runTurn, runSync] at hr
      split at hr
      · cases hr
      · rename_i hl; cases hr; exact ⟨_, ⟨rest, _, _, rfl⟩, .writeToRead (.inr rfl) hl⟩
    | rst => cases hr; exact ⟨_, ⟨rest, _, _, rfl⟩, .rst⟩
    | running d on => cases hr; exact ⟨_, .set d on, .nothing (.inr ⟨d, on, rfl⟩)⟩

end Sys2Proof.Machine
end

