-- ==== Sys2Proof/Laws/Agents.lean ====
section
/-! SUPPORT. What configuring a block, one transaction of an agent and one move of the whole system can do. -/

namespace Sys2Proof.Machine

variable {s : State} {turn : Turn} {k : State → Host.Outcome System Fault Refusal}

/-- Configuring answers the constructed block of a legal record and nothing else. -/
theorem configure_cases {c : Config} {t : State} (h : configure c = .next t) : c.Valid ∧ t = State.construct c := by
  unfold configure at h
  split at h
  · rename_i hv; cases h; exact ⟨hv, rfl⟩
  · cases h

theorem configure_illegal {c : Config} (h : ¬ c.Valid) : configure c = .refused .invalidConfig := if_neg h

/-- A block of an illegal configuration has no step. -/
theorem step_illegal_config (h : ¬ s.cfg.Valid) : step s = .refused .invalidConfig := if_pos h

/-- A turn in front of the others is the one that a checked block takes. -/
theorem step_front (h : Checked s) : step { s with pending := turn :: s.pending } = runTurn turn s :=
  step_eq_runNext (s := { s with pending := turn :: s.pending }) h.1 h.2.1 h.2.2

theorem issue_checked (h : Checked s) :
    issue turn s k = match runTurn turn s with
      | .next t => k t
      | .fault e => .fault e
      | .refused e => .refused e := by
  cases hr : runTurn turn s <;> simp [issue, step_front h, hr]

/-- No agent's transaction reaches a block of an illegal configuration. -/
theorem issue_illegal_config (h : ¬ s.cfg.Valid) : issue turn s k = .refused .invalidConfig := by
  unfold issue
  rw [step_illegal_config (s := { s with pending := turn :: s.pending }) h]

theorem skipCycle_legal {y : System} (h : y.block.cfg.Valid) : skipCycle y = .next y := if_pos h

theorem skipCycle_illegal_config {y : System} (h : ¬ y.block.cfg.Valid) : skipCycle y = .refused .invalidConfig := if_neg h

/-! ### The agents' programs -/

variable {y y' : System} {m : Move}

/-- What a transaction can do: a step of the block whose turn it is, and then what the agent does with the answer. -/
theorem issue_cases (h : issue turn s k = .next y) :
    ∃ t, step { s with pending := turn :: s.pending } = .next t ∧ k t = .next y := by
  unfold issue at h
  split at h
  · rename_i t ht; exact ⟨t, ht, h⟩
  · cases h
  · cases h

theorem offerFrame_cases {f : Frame} (h : offerFrame f y = .next y') :
    ∃ t, step { y.block with pending := .portW (commandWord .prepare) f :: y.block.pending } = .next t ∧
      y' = { y with block := t, held := if accepted t then none else some f,
                    producerAt := if accepted t then .idle else .backOff } := by
  obtain ⟨t, ht, hk⟩ := issue_cases h
  refine ⟨t, ht, ?_⟩
  split at hk <;> rename_i ha <;> cases hk <;> simp [ha]

theorem checkRoom_cases (h : checkRoom y = .next y') :
    ∃ t, step { y.block with pending := .portW (commandWord .isFull) zeroFrame :: y.block.pending } = .next t ∧
      y' = { y with block := t, producerAt := if roomSeen t then .render else .idle } := by
  obtain ⟨t, ht, hk⟩ := issue_cases h
  exact ⟨t, ht, by cases hk; rfl⟩

theorem useFrame_cases (h : useFrame y = .next y') :
    ∃ t p, step { y.block with pending := .portR (commandWord .use) :: y.block.pending } = .next t ∧
      y' = { y with block := t, consumerAt := p } := by
  obtain ⟨t, ht, hk⟩ := issue_cases h
  split at hk <;> cases hk <;> exact ⟨t, _, ht, rfl⟩

theorem blockMove_cases (h : blockMove y = .next y') : ∃ t, step (notedBlock y) = .next t ∧ y' = { y with block := t } := by
  unfold blockMove at h
  split at h
  · rename_i t ht; cases h; exact ⟨t, ht, rfl⟩
  · cases h
  · cases h

@[simp] theorem takeFrame_block {render : Option Frame} : (takeFrame render y).block = y.block := by
  unfold takeFrame; split <;> rfl
@[simp] theorem takeFrame_program {render : Option Frame} : (takeFrame render y).program = y.program := by
  unfold takeFrame; split <;> rfl
@[simp] theorem takeFrame_device {render : Option Frame} : (takeFrame render y).device = y.device := by
  unfold takeFrame; split <;> rfl
@[simp] theorem takeFrame_consumerAt {render : Option Frame} : (takeFrame render y).consumerAt = y.consumerAt := by
  unfold takeFrame; split <;> rfl

/-- A block, with or without a note of who runs, is the same block. -/
theorem SameBlock.refl (s : State) : SameBlock s s := ⟨_, _, _, rfl⟩

theorem noteAgent_same {d : DataPort} :
    SameBlock y.block (noteAgent d y).block ∧ (noteAgent d y).block.pending = y.block.pending := by
  cases d <;> exact ⟨.refl _, rfl⟩
@[simp] theorem noteAgent_held {d : DataPort} : (noteAgent d y).held = y.held := rfl
@[simp] theorem noteAgent_device {d : DataPort} : (noteAgent d y).device = y.device := rfl
@[simp] theorem noteAgent_program {d : DataPort} : (noteAgent d y).program = y.program := rfl
@[simp] theorem noteAgent_producerAt {d : DataPort} : (noteAgent d y).producerAt = y.producerAt := rfl
@[simp] theorem noteAgent_consumerAt {d : DataPort} : (noteAgent d y).consumerAt = y.consumerAt := rfl

/-- The noted block is the block, but for who runs and with the same turns to come. -/
theorem notedBlock_same : SameBlock y.block (notedBlock y) ∧ (notedBlock y).pending = y.block.pending := by
  unfold notedBlock
  constructor
  · split <;> split <;> exact .refl _
  · split <;> split <;> simp

theorem beginCycle_same : SameBlock y.block (beginCycle y).block ∧ (beginCycle y).block.pending = y.block.pending := by
  unfold beginCycle
  split <;> exact ⟨.refl _, rfl⟩
@[simp] theorem beginCycle_program : (beginCycle y).program = y.program := by unfold beginCycle; split <;> rfl
@[simp] theorem beginCycle_device : (beginCycle y).device = y.device := by unfold beginCycle; split <;> rfl
@[simp] theorem beginCycle_consumerAt : (beginCycle y).consumerAt = y.consumerAt := by unfold beginCycle; split <;> rfl

theorem beginCallback_same :
    SameBlock y.block (beginCallback y).block ∧ (beginCallback y).block.pending = y.block.pending := by
  unfold beginCallback
  split <;> exact ⟨.refl _, rfl⟩
@[simp] theorem beginCallback_held : (beginCallback y).held = y.held := by unfold beginCallback; split <;> rfl
@[simp] theorem beginCallback_program : (beginCallback y).program = y.program := by unfold beginCallback; split <;> rfl
@[simp] theorem beginCallback_producerAt : (beginCallback y).producerAt = y.producerAt := by
  unfold beginCallback; split <;> rfl

theorem stopAgent_same {d : DataPort} :
    SameBlock y.block (stopAgent d y).block ∧ (stopAgent d y).block.pending = y.block.pending := by
  cases d <;> simp only [stopAgent] <;> split <;> exact ⟨.refl _, rfl⟩
@[simp] theorem stopAgent_held {d : DataPort} : (stopAgent d y).held = y.held := by
  cases d <;> simp only [stopAgent] <;> split <;> rfl
@[simp] theorem stopAgent_device {d : DataPort} : (stopAgent d y).device = y.device := by
  cases d <;> simp only [stopAgent] <;> split <;> rfl
@[simp] theorem stopAgent_program {d : DataPort} : (stopAgent d y).program = y.program := by
  cases d <;> simp only [stopAgent] <;> split <;> rfl
@[simp] theorem stopAgent_r_producerAt : (stopAgent .r y).producerAt = y.producerAt := by
  simp only [stopAgent]; split <;> rfl
@[simp] theorem stopAgent_consumerAt {d : DataPort} : (stopAgent d y).consumerAt = y.consumerAt := by
  cases d <;> simp only [stopAgent] <;> split <;> rfl

/-- The turn that a move puts in front of the block, if it issues a command. -/
def moveTurn (m : Move) (y : System) : Option Turn :=
  match m, y.producerAt, y.consumerAt with
  | .producer _, .start, _ => some (.portW (commandWord .isFull) zeroFrame)
  | .producer _, .offer, _ => y.held.map fun f => .portW (commandWord .prepare) f
  | .consumer, _, .use => some (.portR (commandWord .use))
  | _, _, _ => none

/-- What a move does to the block: nothing but the note of who runs, the block's own step, or the step of the command that the
agent issues. -/
theorem takeMove_block (h : takeMove m y = .next y') :
    (SameBlock y.block y'.block ∧ y'.block.pending = y.block.pending) ∨ step (notedBlock y) = .next y'.block ∨
      ∃ turn, moveTurn m y = some turn ∧ step { y.block with pending := turn :: y.block.pending } = .next y'.block := by
  cases m with
  | producer render =>
    simp only [takeMove, producerMove] at h
    split at h <;> rename_i hp
    · cases h; exact .inl ⟨.refl _, rfl⟩
    · unfold startCycle at h
      split at h
      · cases h; simp [SameBlock.refl]
      · obtain ⟨t, ht, rfl⟩ := checkRoom_cases h
        exact .inr (.inr ⟨_, by simp [moveTurn, hp], ht⟩)
    · cases h; simp [SameBlock.refl]
    · unfold offerHeld at h
      split at h
      · rename_i f hf
        obtain ⟨t, ht, rfl⟩ := offerFrame_cases h
        exact .inr (.inr ⟨_, by simp [moveTurn, hp, hf], ht⟩)
      · cases h; exact .inl ⟨.refl _, rfl⟩
    · cases h; left; split <;> exact ⟨.refl _, rfl⟩
  | nextCycle => cases h; exact .inl beginCycle_same
  | consumer =>
    simp only [takeMove, consumerMove] at h
    split at h <;> rename_i hp
    · cases h; exact .inl ⟨.refl _, rfl⟩
    · obtain ⟨t, p, ht, rfl⟩ := useFrame_cases h
      exact .inr (.inr ⟨_, by simp [moveTurn, hp], ht⟩)
    · cases h; exact .inl ⟨.refl _, rfl⟩
  | callback => cases h; exact .inl beginCallback_same
  | stop p => cases h; exact .inl stopAgent_same
  | block =>
    obtain ⟨t, ht, rfl⟩ := blockMove_cases h
    exact .inr (.inl ht)

/-- A step of the whole system is a move of it, around a legal configuration. -/
theorem systemStep_cases (h : systemStep m y = .next y') : y.block.cfg.Valid ∧ takeMove m y = .next y' := by
  unfold systemStep at h
  split at h
  · rename_i hv; exact ⟨hv, h⟩
  · cases h

theorem systemStep_legal (h : y.block.cfg.Valid) : systemStep m y = takeMove m y := if_pos h

theorem runMoves_single : runMoves [m] y = systemStep m y := by
  cases h : systemStep m y <;> simp [runMoves, h]

theorem runMoves_cons_cases {ms : List Move} (h : runMoves (m :: ms) y = .next y') :
    ∃ z, systemStep m y = .next z ∧ runMoves ms z = .next y' := by
  rw [runMoves] at h
  split at h
  · rename_i z hz; exact ⟨z, hz, h⟩
  · cases h
  · cases h

end Sys2Proof.Machine
end

