-- ==== Sys2Proof/Laws/Frame.lean ====
section
/-! SUPPORT. The width of a frame as a bound on its number. -/

namespace Sys2Proof

/-- A frame has FRAME_BITS bits exactly when its number is below `2^FRAME_BITS`. -/
theorem fits_iff {c : Config} {f : Nat} : c.Fits f ↔ f < 2 ^ c.frameBits := by
  show f >>> c.frameBits = 0 ↔ _
  rw [Nat.shiftRight_eq_div_pow, Nat.div_eq_zero_iff]
  have := Nat.two_pow_pos c.frameBits
  omega

end Sys2Proof
end

