-- ==== Sys2Proof/Laws/Memory.lean ====
section
/-! SUPPORT. The laws of the slot store: a read after a write, and the canonical form. -/

namespace Sys2Proof.Machine

@[simp] theorem memRead_memWrite_same (m : Memory) (i : Nat) (f : Frame) : memRead (memWrite m i f) i = some f := by
  induction m with
  | nil => simp [memWrite, memRead]
  | cons e m ih =>
    obtain ⟨k, g⟩ := e
    simp only [memWrite]
    split
    · rename_i h; simp [memRead, Nat.ne_of_lt h, ih]
    · split <;> simp [memRead]

theorem memRead_memWrite_ne (m : Memory) {i j : Nat} (f : Frame) (h : j ≠ i) :
    memRead (memWrite m i f) j = memRead m j := by
  induction m with
  | nil => simp [memWrite, memRead, Ne.symm h]
  | cons e m ih =>
    obtain ⟨k, g⟩ := e
    simp only [memWrite]
    split
    · simp only [memRead, ih]
    · split
      · rename_i hk; subst hk; simp [memRead, Ne.symm h]
      · simp [memRead, Ne.symm h]

/-- The entries of a written store: the new one and old ones of other slots or the same list. -/
theorem mem_memWrite {m : Memory} {i : Nat} {f : Frame} {e : Nat × Frame} (h : e ∈ memWrite m i f) :
    e = (i, f) ∨ e ∈ m := by
  induction m with
  | nil => simpa [memWrite] using h
  | cons d m ih =>
    obtain ⟨k, g⟩ := d
    simp only [memWrite] at h
    split at h
    · rcases List.mem_cons.mp h with h | h
      · exact .inr (by simp [h])
      · exact (ih h).imp id (List.mem_cons_of_mem _)
    · split at h
      · rcases List.mem_cons.mp h with h | h
        · exact .inl h
        · exact .inr (List.mem_cons_of_mem _ h)
      · rcases List.mem_cons.mp h with h | h
        · exact .inl h
        · exact .inr h

/-- A write keeps the canonical form. -/
theorem memWrite_wf {m : Memory} {i : Nat} {f : Frame} (h : Memory.wf m) : Memory.wf (memWrite m i f) := by
  induction m with
  | nil => simp [memWrite, Memory.wf]
  | cons d m ih =>
    obtain ⟨k, g⟩ := d
    obtain ⟨hd, hm⟩ := List.pairwise_cons.mp h
    simp only [memWrite]
    split
    · rename_i hk
      refine List.pairwise_cons.mpr ⟨fun e he => ?_, ih hm⟩
      rcases mem_memWrite he with rfl | he
      · exact hk
      · exact hd e he
    · split
      · rename_i hk; subst hk
        exact List.pairwise_cons.mpr ⟨hd, hm⟩
      · refine List.pairwise_cons.mpr ⟨fun e he => ?_, h⟩
        rcases List.mem_cons.mp he with rfl | he
        · simp only; omega
        · have := hd e he; simp only at this ⊢; omega

/-- The canonical form has nothing listed right after reset. -/
theorem reset_slots_wf (c : Config) : Memory.wf (State.construct c).slots := List.Pairwise.nil

/-- Hardware reset and RESET keep the canonical form. -/
theorem resetCursors_slots_wf {s : State} (h : Memory.wf s.slots) : Memory.wf (resetCursors s).slots := by
  have : (resetCursors s).slots = s.slots := by
    unfold resetCursors alignViews alignCursors
    split <;> split <;> rfl
  rwa [this]

theorem hardwareReset_slots_wf (s : State) : Memory.wf (hardwareReset s).slots := List.Pairwise.nil

end Sys2Proof.Machine
end

