-- ==== Sys2Proof/Laws/Modulo.lean ====
section
/-! SUPPORT. The arithmetic modulo N of 00_scope.md R14: ranges, and what one increment does to a difference. -/

namespace Sys2Proof.Machine

variable {n a b : Nat}

theorem incN_lt (ha : a < n) : incN n a < n := by
  unfold incN; split <;> omega

theorem incN_eq_mod (ha : a < n) : incN n a = (a + 1) % n := by
  unfold incN
  split
  · rw [show a + 1 = n by omega, Nat.mod_self]
  · rw [Nat.mod_eq_of_lt (by omega)]

theorem subN_lt (ha : a < n) (hb : b < n) : subN n a b < n := by
  unfold subN; split <;> omega

@[simp] theorem subN_self : subN n a a = 0 := by simp [subN]

theorem subN_eq_zero_iff (hb : b < n) : subN n a b = 0 ↔ a = b := by
  unfold subN; split <;> omega

/-- Going `sub_N(a, b)` on from `b` leads to `a`. -/
theorem add_subN_mod (ha : a < n) (hb : b < n) : (b + subN n a b) % n = a := by
  unfold subN
  split
  · rw [show b + (a - b) = a by omega, Nat.mod_eq_of_lt ha]
  · rw [show b + (a + n - b) = a + n by omega, Nat.add_mod_right, Nat.mod_eq_of_lt ha]

/-- Advancing the first cursor adds one, as long as the difference can grow. -/
theorem subN_incN_left (ha : a < n) (hb : b < n) (h : subN n a b < n - 1) :
    subN n (incN n a) b = subN n a b + 1 := by
  unfold subN incN at *
  split_ifs at * <;> omega

/-- Advancing the second cursor takes one away, as long as there is one. -/
theorem subN_incN_right (ha : a < n) (hb : b < n) (h : subN n a b ≠ 0) :
    subN n a (incN n b) + 1 = subN n a b := by
  unfold subN incN at *
  split_ifs at * <;> omega

/-- The residue as an integer. -/
theorem subN_eq_emod (ha : a < n) (hb : b < n) : (subN n a b : Int) = ((a : Int) - b) % n := by
  unfold subN
  split
  · rw [Int.emod_eq_of_lt (by omega) (by omega)]; omega
  · rw [← Int.add_emod_right, Int.emod_eq_of_lt (by omega) (by omega)]; omega

theorem countUp_lt (k c : Nat) : countUp k c < 2 ^ k := Nat.mod_lt _ (Nat.two_pow_pos k)

/-- A value below `2^32` is read back from its 32-bit field. -/
theorem zext32_toNat {v : Nat} (h : v < 2 ^ 32) : (zext32 v).toNat = v := by
  simp only [zext32, BitVec.toNat_ofNat]
  exact Nat.mod_eq_of_lt h

end Sys2Proof.Machine
end

