-- ==== Sys2Proof/Laws/PerInstr.lean ====
section
/-! SUPPORT. A fact of every instruction, one lemma per constructor: its transaction is legal. The word has RSV zero
(30_encoding.md R101) and an OP that the table of R102 lists for the port it is issued on (R103). -/

namespace Sys2Proof.Laws.EncodesLegally

open Sys2Proof.Machine

/-- The instruction's transaction has RSV zero and stands on a port that the opcode map lists for its OP. -/
def Statement (i : Instr) : Prop :=
  (encode i).cmd.toNat / 16 = 0 ∧ (encode i).port ∈ legalPorts ((encode i).cmd.toNat % 16)

theorem nop (p : Port) : Statement (.nop p) := by cases p <;> exact ⟨rfl, by decide⟩

theorem prepare (f : Frame) : Statement (.prepare f) :=
  have h : (commandWord .prepare).toNat / 16 = 0 ∧ Port.w ∈ legalPorts ((commandWord .prepare).toNat % 16) := by decide
  h

theorem filled (p : DataPort) : Statement (.filled p) := by cases p <;> exact ⟨rfl, by decide⟩

theorem isFull (p : DataPort) : Statement (.isFull p) := by cases p <;> exact ⟨rfl, by decide⟩

theorem use : Statement .use := ⟨rfl, by decide⟩

theorem reset : Statement .reset := ⟨rfl, by decide⟩

theorem rdUnderruns : Statement .rdUnderruns := ⟨rfl, by decide⟩

theorem rdOverruns : Statement .rdOverruns := ⟨rfl, by decide⟩

end Sys2Proof.Laws.EncodesLegally
end

