-- ==== Sys2Proof/Laws/Views.lean ====
section
/-! SUPPORT. What each operation does to the views and to the counts that the ports see. -/

namespace Sys2Proof.Machine

variable {s : State}

/-- The views and the counts depend only on the configuration, the cursors and the stored views. -/
theorem readIndexSeen_congr {t : State} (hc : t.cfg = s.cfg) (hr : t.r = s.r) (hv : t.rv = s.rv) :
    readIndexSeen t = readIndexSeen s := by simp [readIndexSeen, hc, hr, hv]

theorem writeIndexSeen_congr {t : State} (hc : t.cfg = s.cfg) (hw : t.w = s.w) (hv : t.wv = s.wv) :
    writeIndexSeen t = writeIndexSeen s := by simp [writeIndexSeen, hc, hw, hv]

section Respond

variable (p : Port) (d : DataPort) (st : Status) (slot : Nat) (v : Value) (f : Frame) (c : Condition)

@[simp] theorem readIndexSeen_respond : readIndexSeen (respond p st slot v f s) = readIndexSeen s := by
  simp [readIndexSeen]

@[simp] theorem writeIndexSeen_respond : writeIndexSeen (respond p st slot v f s) = writeIndexSeen s := by
  simp [writeIndexSeen]

@[simp] theorem readIndexSeen_raise : readIndexSeen (raise c s) = readIndexSeen s := by simp [readIndexSeen]

@[simp] theorem writeIndexSeen_raise : writeIndexSeen (raise c s) = writeIndexSeen s := by simp [writeIndexSeen]

@[simp] theorem filledSeen_respond : filledSeen d (respond p st slot v f s) = filledSeen d s := by
  cases d <;> simp [filledSeen]

@[simp] theorem filledSeen_raise : filledSeen d (raise c s) = filledSeen d s := by cases d <;> simp [filledSeen]

@[simp] theorem filledCount_respond : filledCount (respond p st slot v f s) = filledCount s := by simp [filledCount]

@[simp] theorem filledCount_raise : filledCount (raise c s) = filledCount s := by simp [filledCount]

@[simp] theorem poolSlots_respond : poolSlots (respond p st slot v f s) = poolSlots s := by simp [poolSlots]

@[simp] theorem poolSlots_raise : poolSlots (raise c s) = poolSlots s := by simp [poolSlots]

@[simp] theorem contents_respond : contents (respond p st slot v f s) = contents s := by simp [contents]

@[simp] theorem contents_raise : contents (raise c s) = contents s := by simp [contents]

end Respond

/-- After RESET both views and `R` are where `W` is. -/
theorem seen_resetCursors :
    readIndexSeen (resetCursors s) = (resetCursors s).w ∧ writeIndexSeen (resetCursors s) = (resetCursors s).w ∧
      (resetCursors s).r = (resetCursors s).w := by
  have hw := resetCursors_w s
  cases hm : s.cfg.syncMode
  · simp [readIndexSeen, writeIndexSeen, hm, hw]
  · have hv := resetCursors_views s hm
    simp [readIndexSeen, writeIndexSeen, hm, hw, hv]

end Sys2Proof.Machine
end

