-- ==== Sys2Proof/Laws/Pool.lean ====
section
/-! SUPPORT. The slots of the pool as a list: what one store and one delivery do to it. -/

namespace Sys2Proof.Machine

variable {s : State}

/-- `filledCount` slots on from `R` stands `W`. -/
theorem add_filledCount_mod (hw : s.w < s.cfg.n) (hr : s.r < s.cfg.n) : (s.r + filledCount s) % s.cfg.n = s.w :=
  add_subN_mod hw hr

theorem mem_poolSlots {i : Nat} : i ∈ poolSlots s ↔ ∃ k, k < filledCount s ∧ (s.r + k) % s.cfg.n = i := by
  simp [poolSlots]

@[simp] theorem poolSlots_length : (poolSlots s).length = filledCount s := by simp [poolSlots]

/-- Adding less than N twice to one number gives the same residue only from the same number. -/
theorem add_mod_inj {n r k l : Nat} (hk : k < n) (hl : l < n) (h : (r + k) % n = (r + l) % n) : k = l := by
  have : k ≡ l [MOD n] := Nat.ModEq.add_left_cancel' r h
  exact Nat.ModEq.eq_of_lt_of_lt this hk hl

/-- The slot that `W` names holds no undelivered frame. -/
theorem w_notMem_poolSlots (hw : s.w < s.cfg.n) (hr : s.r < s.cfg.n) : s.w ∉ poolSlots s := by
  rw [mem_poolSlots]
  rintro ⟨k, hk, he⟩
  have hc : filledCount s < s.cfg.n := subN_lt hw hr
  have := add_mod_inj (by omega) hc (he.trans (add_filledCount_mod hw hr).symm)
  omega

theorem filledCount_storeFrame (f : Frame) (hw : s.w < s.cfg.n) (hr : s.r < s.cfg.n) (h : filledCount s < s.cfg.n - 1) :
    filledCount (storeFrame f s) = filledCount s + 1 :=
  subN_incN_left hw hr h

theorem filledCount_deliverFrame (f : Frame) (hw : s.w < s.cfg.n) (hr : s.r < s.cfg.n) (h : filledCount s ≠ 0) :
    filledCount (deliverFrame f s) + 1 = filledCount s :=
  subN_incN_right hw hr h

/-- A store adds slot `W` at the end. -/
theorem poolSlots_storeFrame (f : Frame) (hw : s.w < s.cfg.n) (hr : s.r < s.cfg.n) (h : filledCount s < s.cfg.n - 1) :
    poolSlots (storeFrame f s) = poolSlots s ++ [s.w] := by
  unfold poolSlots
  rw [filledCount_storeFrame f hw hr h, List.range_succ, List.map_append, List.map_singleton, storeFrame_r,
    storeFrame_cfg, add_filledCount_mod hw hr]

/-- A delivery takes slot `R` from the front. -/
theorem poolSlots_deliverFrame (f : Frame) (hw : s.w < s.cfg.n) (hr : s.r < s.cfg.n) (h : filledCount s ≠ 0) :
    poolSlots s = s.r :: poolSlots (deliverFrame f s) := by
  unfold poolSlots
  rw [← filledCount_deliverFrame f hw hr h, List.range_succ_eq_map, List.map_cons, List.map_map, Nat.add_zero,
    Nat.mod_eq_of_lt hr, deliverFrame_r, deliverFrame_cfg]
  congr 1
  apply List.map_congr_left
  intro k _
  rw [Function.comp_apply, incN_eq_mod hr, Nat.mod_add_mod, Nat.add_right_comm, Nat.succ_eq_add_one, Nat.add_assoc]

/-- An empty pool has no slots. -/
theorem poolSlots_eq_nil (h : filledCount s = 0) : poolSlots s = [] := by simp [poolSlots, h]

/-- The contents depend only on the pool's slots and what they hold. -/
theorem contents_congr {t : State} (hp : poolSlots t = poolSlots s)
    (hm : ∀ i ∈ poolSlots s, memRead t.slots i = memRead s.slots i) : contents t = contents s := by
  unfold contents
  rw [hp]
  exact List.filterMap_congr fun i hi => by rw [hm i hi]

end Sys2Proof.Machine
end

