-- ==== Sys2Proof/Tests/Slice0.lean ====
section
/-! SUPPORT. Small tests of the model against spec/95_test_vectors.md and the worked examples of the rules, and for every
obligation with hypotheses a concrete state that meets them. -/

namespace Sys2Proof.Tests

open Sys2Proof.Machine

/-- Configuration T of 95_test_vectors.md. -/
def cfgT : Config := ⟨4, 1, 1, 44100, 8, 4, .shared, .align⟩

/-- Configuration T with SYNC_MODE = 1. -/
def cfgL : Config := { cfgT with syncMode := .lagging }

/-- A block with its cursors and slots. -/
def block (c : Config) (w r : Nat) (slots : Memory := []) : State :=
  { State.construct c with w := w, r := r, slots := slots }

/-- A block of configuration T under SYNC_MODE = 1 with its cursors and views. -/
def lagging (w r rv wv : Nat) (slots : Memory := []) : State := { block cfgL w r slots with rv := rv, wv := wv }

/-- A block with its next turn. -/
def next (t : Turn) (s : State) : State := { s with pending := [t] }

/-- A block with its two agents and what the Producer holds. -/
def holding (held : Option Frame) (s : State) : System := { System.around .holdAndRetry s with held := held }

/-! ### WellFormed, decoding and encoding -/

/-- The one check: an operand of nine bits where FRAME_BITS is 8. -/
theorem test_wellFormed_refuses_wide_frame : (Instr.prepare 0x100).wellFormed cfgT = false := by decide

theorem test_wellFormed_accepts_frame : (Instr.prepare 0xFF).wellFormed cfgT = true := by decide

/-! Words written bit by bit from 30_encoding.md R101 and R102: RSV 0000, then OP. -/

theorem test_decode_nop : decode cfgT .c 0b00000000 0 = .ok (.nop .c) := rfl
theorem test_decode_prepare : decode cfgT .w 0b00000001 0x11 = .ok (.prepare 0x11) := rfl
theorem test_decode_filled : decode cfgT .r 0b00000010 0 = .ok (.filled .r) := rfl
theorem test_decode_isFull : decode cfgT .w 0b00000011 0x11 = .ok (.isFull .w) := rfl
theorem test_decode_use : decode cfgT .r 0b00000100 0 = .ok .use := rfl
theorem test_decode_reset : decode cfgT .c 0b00001000 0 = .ok .reset := rfl
theorem test_decode_rdUnderruns : decode cfgT .c 0b00001001 0 = .ok .rdUnderruns := rfl
theorem test_decode_rdOverruns : decode cfgT .c 0b00001010 0 = .ok .rdOverruns := rfl

/-- 95_test_vectors.md 2.1 rows 2, 3, 6 and 8: the three clauses of 30_encoding.md R105. -/
theorem test_decode_rejects_by_name :
    decode cfgT .w 0x81 0 = .error .reservedField ∧ decode cfgT .r 0x05 0 = .error .reservedOp ∧
      decode cfgT .w 0x04 0 = .error .wrongPort ∧ decode cfgT .c 0x02 0 = .error .wrongPort :=
  ⟨rfl, rfl, rfl, rfl⟩

theorem test_decode_wide_operand : decode cfgT .w 0x01 0x100 = .error .frameWidth := rfl

theorem test_encode_words :
    (encode (.nop .r)).cmd = 0x00 ∧ (encode (.prepare 5)).cmd = 0x01 ∧ (encode (.filled .w)).cmd = 0x02 ∧
      (encode (.isFull .w)).cmd = 0x03 ∧ (encode .use).cmd = 0x04 ∧ (encode .reset).cmd = 0x08 ∧
      (encode .rdUnderruns).cmd = 0x09 ∧ (encode .rdOverruns).cmd = 0x0A := by decide

/-- A word placed by the host's function is the next instruction of the machine after reset. -/
theorem test_withFetchWord_runs :
    nextSatisfies (step (State.reset.withFetchWord 8 0x04)) (fun t => decide (t.rOut = [⟨.none, 0, 0, 0⟩] ∧ t.ucnt = 1)) =
      true := by decide

/-! ### One step of each command -/

theorem test_nop_responds :
    nextSatisfies (step (next (.portR 0x00) (block cfgT 2 0)))
      (fun t => decide (t.rOut = [⟨.ok, 0, 0, 0⟩] ∧ t.w = 2 ∧ t.r = 0)) = true := by decide

/-- 95_test_vectors.md 2.1 row 6. -/
theorem test_illegal_use_on_w :
    nextSatisfies (step (next (.portW 0x04 0) (block cfgT 1 0 [(0, 0x5A)])))
      (fun t => decide (t.wOut = [⟨.illegal, 0, 0⟩] ∧ t.ucnt = 0 ∧ t.r = 0)) = true := by decide

/-- 60_exceptions.md R241: an illegal word records nothing, so a later RESET under SYNC_MODE = 1 has its effect. -/
theorem test_illegal_then_reset :
    nextSatisfies (runSteps 2 { lagging 3 1 0 3 with pending := [.portW 0x04 0, .portC 0x08] })
      (fun t => decide (t.wOut = [⟨.illegal, 0, 0⟩] ∧ t.cOut = [⟨.ok, 0⟩] ∧ t.w = 1)) = true := by decide

/-- 95_test_vectors.md 2.2 row 5: the write cursor wraps at N. -/
theorem test_prepare_wraps :
    nextSatisfies (step (next (.portW 0x01 0x44) (block cfgT 3 1)))
      (fun t => decide (t.wOut = [⟨.ok, 3, 0⟩] ∧ t.w = 0 ∧ memRead t.slots 3 = some 0x44)) = true := by decide

/-- 95_test_vectors.md 2.2 row 7: an overrun wraps the counter of CNT_W = 4. -/
theorem test_prepare_overruns :
    nextSatisfies (step (next (.portW 0x01 0x55) { block cfgT 0 1 with ocnt := 15 }))
      (fun t => decide (t.wOut = [⟨.none, 0, 0⟩] ∧ t.ocnt = 0 ∧ t.w = 0)) = true := by decide

/-- 95_test_vectors.md 2.3 row 3. -/
theorem test_use_wraps :
    nextSatisfies (step (next (.portR 0x04) (block cfgT 0 3 [(3, 0x44)])))
      (fun t => decide (t.rOut = [⟨.ok, 3, 0, 0x44⟩] ∧ t.r = 0)) = true := by decide

/-- 95_test_vectors.md 2.3 row 5: silence, not the stale frame. -/
theorem test_use_underruns :
    nextSatisfies (step (next (.portR 0x04) (block cfgT 3 3 [(3, 0x44)])))
      (fun t => decide (t.rOut = [⟨.none, 0, 0, 0⟩] ∧ t.ucnt = 1 ∧ t.r = 3)) = true := by decide

/-- 95_test_vectors.md 2.4, configuration D, W = 3 and R = 20: the difference wraps at 24 and not at 32. -/
theorem test_filled_wraps_at_n :
    nextSatisfies (step (next (.portW 0x02 0) (block Config.default 3 20))) (fun t => decide (t.wOut = [⟨.ok, 0, 7⟩])) =
      true := by decide

/-- 95_test_vectors.md 2.8 row 4: the two ports see different counts. -/
theorem test_filled_lagging_views :
    nextSatisfies (step (next (.portR 0x02) (lagging 3 1 0 3))) (fun t => decide (t.rOut = [⟨.ok, 0, 2, 0⟩])) = true ∧
      nextSatisfies (step (next (.portW 0x02 0) (lagging 3 1 0 3))) (fun t => decide (t.wOut = [⟨.ok, 0, 3⟩])) = true := by
  decide

/-- 95_test_vectors.md 2.4, configuration D, W = 19 and R = 20. -/
theorem test_isFull_full :
    nextSatisfies (step (next (.portW 0x03 0) (block Config.default 19 20))) (fun t => decide (t.wOut = [⟨.ok, 0, 1⟩])) =
      true := by decide

/-- 95_test_vectors.md 2.8 row 6. -/
theorem test_isFull_by_port :
    nextSatisfies (step (next (.portW 0x03 0) (lagging 3 1 0 2))) (fun t => decide (t.wOut = [⟨.ok, 0, 1⟩])) = true ∧
      nextSatisfies (step (next (.portR 0x03) (lagging 3 1 0 2))) (fun t => decide (t.rOut = [⟨.ok, 0, 0, 0⟩])) = true := by
  decide

/-- 95_test_vectors.md 2.5 row 1. -/
theorem test_reset_align :
    nextSatisfies (step (next (.portC 0x08) { block cfgT 3 1 with ocnt := 2, ucnt := 5 }))
      (fun t => decide (t.cOut = [⟨.ok, 0⟩] ∧ t.w = 1 ∧ t.r = 1 ∧ t.ocnt = 2 ∧ t.ucnt = 5)) = true := by decide

/-- 95_test_vectors.md 2.5 row 5. -/
theorem test_reset_zero_lagging :
    nextSatisfies (step (next (.portC 0x08) { lagging 3 1 0 2 with cfg := { cfgL with resetCursorMode := .zero } }))
      (fun t => decide (t.w = 0 ∧ t.r = 0 ∧ t.rv = 0 ∧ t.wv = 0)) = true := by decide

/-- 95_test_vectors.md 2.6 row 1. -/
theorem test_rdUnderruns :
    nextSatisfies (step (next (.portC 0x09) { State.reset with ocnt := 7, ucnt := 3 }))
      (fun t => decide (t.cOut = [⟨.ok, 3⟩])) = true := by decide

/-- 95_test_vectors.md 2.6 row 3. -/
theorem test_rdOverruns :
    nextSatisfies (step (next (.portC 0x0A) { State.reset with ocnt := 0xFFFFFFFF }))
      (fun t => decide (t.cOut = [⟨.ok, 0xFFFFFFFF⟩])) = true := by decide

/-! ### Sync steps, hardware reset, frames, text and agents -/

/-- 95_test_vectors.md 2.8 row 2. -/
theorem test_syncW2R :
    nextSatisfies (step (next .syncW2R (lagging 2 0 0 0))) (fun t => decide (t.wv = 2 ∧ t.rv = 0 ∧ t.w = 2)) = true := by
  decide

theorem test_rst :
    nextSatisfies (step (next .rst { block cfgT 3 1 [(1, 0x5A), (2, 0x5B)] with ocnt := 2 }))
      (fun t => decide (t.w = 0 ∧ t.r = 0 ∧ t.ocnt = 0) && !wFull t && rEmpty t) = true := by decide

/-- The configuration of 95_test_vectors.md 2.9. -/
def cfgF : Config := { cfgT with channels := 2, frameLength := 2 }

/-- 95_test_vectors.md 2.9. -/
theorem test_frame_layout :
    packSamples cfgF [0x11, 0x22, 0x33, 0x44] = 0x44332211 ∧ sampleAt cfgF 0x44332211 1 0 = 0x33 := by decide

/-- 95_test_vectors.md E10. -/
theorem test_default_shape :
    Config.default.idxW = 5 ∧ Config.default.frameBits = 262144 ∧ Config.default.capacity = 23 := by decide

/-- The lines `W: PREPARE 0xA1` and `SYNC_W2R` of 95_test_vectors.md P2 and P5. -/
theorem test_transcribe :
    transcribe cfgL id 1 [['W', ':', ' ', 'P', 'R', 'E', 'P', 'A', 'R', 'E', ' ', '0', 'x', 'A', '1'],
      ['S', 'Y', 'N', 'C', '_', 'W', '2', 'R']] = .ok [.portW 0x01 0xA1, .syncW2R] := by rfl

/-- A literal of nine bits on the second line is refused by its line number. -/
theorem test_transcribe_refuses :
    transcribe cfgT id 1 [['W', ':', 'N', 'O', 'P'],
      ['W', ':', ' ', 'P', 'R', 'E', 'P', 'A', 'R', 'E', ' ', '0', 'x', '1', '0', '0']] =
      .error (2, .frameWidth) := by rfl

/-- 95_test_vectors.md P6 step 2: on a full pool of N = 2 the frame is held. -/
theorem test_producer_holds :
    (match producerCycle (some 0xC2) (holding none { block cfgT 1 0 [(0, 0xC1)] with cfg := { cfgT with n := 2 } }) with
      | .next y => decide (y.held = some 0xC2 ∧ y.block.ocnt = 1)
      | .fault _ => false
      | .refused _ => false) = true := by decide

/-- 95_test_vectors.md P6 step 3. -/
theorem test_consumer_delivers :
    (match consumerTick (holding (some 0xC2) { block cfgT 1 0 [(0, 0xC1)] with cfg := { cfgT with n := 2 } }) with
      | .next y => decide (y.device = [0xC1] ∧ y.block.r = 1)
      | .fault _ => false
      | .refused _ => false) = true := by decide

/-- 00_scope.md R10: around a block of N = 1 a failed render is refused as well. -/
theorem test_agents_refuse_illegal_config :
    producerCycle none (holding none (block { cfgT with n := 1 } 0 0)) = .refused .invalidConfig := by rfl

/-! ### States that meet the obligations' hypotheses -/

/-- Two frames held, SYNC_MODE = 0. -/
def twoHeld : State := block cfgT 2 0 [(0, 0xA1), (1, 0xA2)]

/-- A full pool, SYNC_MODE = 0. -/
def fullPool : State := block cfgT 3 0 [(0, 0xA1), (1, 0xA2), (2, 0xA3)]

/-- An empty pool away from slot 0, at the last slot, with a stale frame. -/
def emptyPool : State := block cfgT 3 3 [(3, 0x44)]

/-- 95_test_vectors.md 2.8 row 3: a spurious overrun is ahead. -/
def laggingPool : State := lagging 3 1 0 3 [(0, 0xA1), (1, 0xA2), (2, 0xA3)]

/-- 95_test_vectors.md 2.8 row 1: a spurious underrun is ahead. -/
def laggingFresh : State := lagging 2 0 0 0 [(0, 0xA1), (1, 0xA2)]

theorem twoHeld_sound : Sound twoHeld :=
  ⟨by decide, by decide, by decide, ⟨by decide, by decide, by decide, by decide⟩, by decide, by decide, by decide,
    by decide, by decide, by decide, by decide⟩

theorem fullPool_sound : Sound fullPool :=
  ⟨by decide, by decide, by decide, ⟨by decide, by decide, by decide, by decide⟩, by decide, by decide, by decide,
    by decide, by decide, by decide, by decide⟩

theorem emptyPool_sound : Sound emptyPool :=
  ⟨by decide, by decide, by decide, ⟨by decide, by decide, by decide, by decide⟩, by decide, by decide, by decide,
    by decide, by decide, by decide, by decide⟩

theorem laggingPool_sound : Sound laggingPool :=
  ⟨by decide, by decide, by decide, ⟨by decide, by decide, by decide, by decide⟩, by decide, by decide, by decide,
    by decide, by decide, by decide, by decide⟩

theorem laggingFresh_sound : Sound laggingFresh :=
  ⟨by decide, by decide, by decide, ⟨by decide, by decide, by decide, by decide⟩, by decide, by decide, by decide,
    by decide, by decide, by decide, by decide⟩

/-- A sound block stays sound whatever turns are to come. -/
theorem sound_with_turns {s : State} (h : Sound s) (ts : List Turn) : Sound { s with pending := ts } :=
  ⟨h.valid, h.w_lt, h.r_lt, ⟨h.views.range, h.views.writeSide, h.views.writeBound, h.views.readSide⟩, h.ocnt_lt, h.ucnt_lt,
    h.slots_wf, h.slots_lt, h.slots_fit, h.written, h.statuses⟩

theorem witness_ModularArithmeticIsModuloN : (3 : Nat) < 24 ∧ (20 : Nat) < 24 ∧ (23 : Nat) < 24 := by decide

theorem witness_DerivedParameters : Config.default.Valid ∧ ({ cfgT with n := 2 } : Config).Valid := by decide

theorem witness_DecodeAndEncodeAgree :
    (Instr.prepare 0xFF).wellFormed cfgT = true ∧ decode cfgT .w 0x01 0xFF = .ok (.prepare 0xFF) := ⟨by decide, rfl⟩

theorem witness_DecodingIsTotal :
    illegalWord .w 0x0F = true ∧ illegalWord .c 0x01 = true ∧ illegalWord .r 0x10 = true ∧ illegalWord .w 0x0A = true ∧
      illegalWord .w 0x01 = false ∧ ¬ cfgT.Fits 0x100 ∧ cfgT.Fits 0xFF := by decide

theorem witness_FrameLayout :
    cfgF.Valid ∧ [0x11, 0x22, 0x33, 0x44].length = cfgF.frameSamples ∧
      (∀ x ∈ [0x11, 0x22, 0x33, 0x44], x < 2 ^ cfgF.sampleW) ∧ 1 < cfgF.channels ∧ 1 < cfgF.frameLength ∧
      7 < cfgF.sampleW ∧ cfgF.Fits 0x44332211 := by decide

theorem witness_StepRunsTheDecodedCommand :
    Checked (next (.portW 0x01 0x44) twoHeld) ∧ decode twoHeld.cfg .w 0x01 0x44 = .ok (.prepare 0x44) ∧
      Checked (next (.portR 0x04) twoHeld) ∧ decode twoHeld.cfg .r 0x04 zeroFrame = .ok .use ∧
      Checked (next (.portC 0x08) twoHeld) ∧ decode twoHeld.cfg .c 0x08 zeroFrame = .ok .reset :=
  ⟨by decide, rfl, by decide, rfl, by decide, rfl⟩

/-- A word that neither port notes: NOP; one that is ILLEGAL on W, and one on R. -/
theorem witness_CommandsNoteTheirAgent :
    ((0x00 : Byte) ≠ 0x01 ∧ (0x00 : Byte) ≠ 0x02 ∧ (0x00 : Byte) ≠ 0x03 ∧ (0x00 : Byte) ≠ 0x04) ∧
      ((0x04 : Byte) ≠ 0x01 ∧ (0x04 : Byte) ≠ 0x02 ∧ (0x04 : Byte) ≠ 0x03) ∧
      ((0x01 : Byte) ≠ 0x02 ∧ (0x01 : Byte) ≠ 0x03 ∧ (0x01 : Byte) ≠ 0x04) := by decide

theorem witness_IllegalWordsChangeNothing :
    Checked (next (.portW 0x10 0) twoHeld) ∧ illegalWord .w 0x10 = true ∧
      Checked (next (.portR 0x01) twoHeld) ∧ illegalWord .r 0x01 = true ∧
      Checked (next (.portC 0x02) twoHeld) ∧ illegalWord .c 0x02 = true := by decide

theorem witness_SyncStepsMoveTheViews :
    Checked (next .syncR2W laggingPool) ∧ laggingPool.cfg.syncMode = .lagging ∧
      Checked (next .syncW2R laggingFresh) ∧ laggingFresh.cfg.syncMode = .lagging ∧
      Checked (next .syncR2W twoHeld) ∧ twoHeld.cfg.syncMode = .shared := by decide

theorem witness_HardwareResetSetsTheState :
    Checked (next .rst fullPool) ∧ (next .rst fullPool).pending = [.rst] ∧ Checked (next .rst laggingPool) := by decide

theorem witness_AgentsStartAndStop :
    Checked (next (.running .w true) twoHeld) ∧ Checked (next (.running .r false) twoHeld) := by decide

/-- A state for each clause: N = 1; `W` = N; `R` = N; a view at N; a status `0b11` on each port. -/
theorem witness_UnsoundBlocksStop :
    ¬ (block { cfgT with n := 1 } 0 0).cfg.Valid ∧ ((block cfgT 4 0).cfg.Valid ∧ cfgT.n ≤ (block cfgT 4 0).w) ∧
      cfgT.n ≤ (block cfgT 0 4).r ∧ (cfgL.Valid ∧ cfgL.n ≤ (lagging 0 0 4 0).rv ∧ cfgL.n ≤ (lagging 0 0 0 4).wv) ∧
      (cursorsInRange { twoHeld with wOut := [⟨.reserved, 0, 0⟩] } = true ∧
        ∃ x ∈ ({ twoHeld with wOut := [⟨.reserved, 0, 0⟩] } : State).wOut, x.status = .reserved) ∧
      (∃ x ∈ ({ twoHeld with rOut := [⟨.reserved, 0, 0, 0⟩] } : State).rOut, x.status = .reserved) ∧
      (∃ x ∈ ({ twoHeld with cOut := [⟨.reserved, 0⟩] } : State).cOut, x.status = .reserved) := by decide

/-- A state for each of the four modes. -/
theorem witness_ResetSetsTheCursorsEqual :
    (twoHeld.cfg.syncMode = .shared ∧ twoHeld.cfg.resetCursorMode = .align) ∧
      (({ twoHeld with cfg := { cfgT with resetCursorMode := .zero } } : State).cfg.syncMode = .shared ∧
        ({ twoHeld with cfg := { cfgT with resetCursorMode := .zero } } : State).cfg.resetCursorMode = .zero) ∧
      (laggingPool.cfg.syncMode = .lagging ∧ laggingPool.producerRunning = false ∧
        laggingPool.consumerRunning = false ∧ laggingPool.cfg.resetCursorMode = .align) ∧
      ({ cfgL with resetCursorMode := .zero } : Config).syncMode = .lagging := by decide

theorem witness_ResetWhileRunningFaults :
    ({ laggingPool with producerRunning := true } : State).cfg.syncMode = .lagging ∧
      (({ laggingPool with producerRunning := true } : State).producerRunning = true ∨
        ({ laggingPool with producerRunning := true } : State).consumerRunning = true) := by decide

theorem witness_AfterResetThePoolIsEmpty :
    laggingPool.cfg.Valid ∧
      (laggingPool.cfg.syncMode = .lagging → laggingPool.producerRunning = false ∧ laggingPool.consumerRunning = false) := by
  decide

theorem witness_ResetIsIdempotent :
    exec .reset twoHeld = .next { twoHeld with w := 0, cOut := [⟨.ok, 0⟩] } := rfl

theorem witness_ViewsByMode : twoHeld.cfg.syncMode = .shared ∧ laggingPool.cfg.syncMode = .lagging := by decide

/-- Room of one frame exactly, with `W` at the last slot, and an empty pool. -/
theorem witness_PrepareStoresItsFrame :
    subN 4 (block cfgT 3 1).w (readIndexSeen (block cfgT 3 1)) = 4 - 2 ∧
      subN 4 emptyPool.w (readIndexSeen emptyPool) < 4 - 1 := by decide

theorem witness_PrepareOverrunsWhenFull :
    subN fullPool.cfg.n fullPool.w (readIndexSeen fullPool) ≥ fullPool.cfg.n - 1 ∧
      subN laggingPool.cfg.n laggingPool.w (readIndexSeen laggingPool) ≥ laggingPool.cfg.n - 1 := by decide

theorem witness_UseDeliversTheFrame :
    subN 4 (writeIndexSeen (block cfgT 0 3 [(3, 0x44)])) 3 ≠ 0 ∧ memRead (block cfgT 0 3 [(3, 0x44)]).slots 3 = some 0x44 := by
  decide

theorem witness_UseUnderrunsWhenEmpty :
    subN emptyPool.cfg.n (writeIndexSeen emptyPool) emptyPool.r = 0 ∧
      subN laggingFresh.cfg.n (writeIndexSeen laggingFresh) laggingFresh.r = 0 := by decide

theorem witness_UseOfAnUnwrittenSlotFaults :
    subN 4 (writeIndexSeen (block cfgT 1 0)) (block cfgT 1 0).r ≠ 0 ∧
      memRead (block cfgT 1 0).slots (block cfgT 1 0).r = none := by decide

theorem witness_MetricReadsAnswerTheCounter :
    twoHeld.cfg.Valid ∧ ({ twoHeld with ucnt := 15, ocnt := 15 } : State).ucnt < 2 ^ twoHeld.cfg.cntW := by decide

/-- A sound state for each clause that needs room, or a frame, in each mode. -/
theorem witness_sound_room_and_frames :
    (Sound twoHeld ∧ fullSeen .w twoHeld = false ∧ filledSeen .r twoHeld ≠ 0) ∧
      (Sound laggingFresh ∧ fullSeen .w laggingFresh = false) ∧ (Sound laggingPool ∧ filledSeen .r laggingPool ≠ 0) :=
  ⟨⟨twoHeld_sound, by decide, by decide⟩, ⟨laggingFresh_sound, by decide⟩, laggingPool_sound, by decide⟩

theorem witness_SuccessMovesTheFlags :
    Sound twoHeld ∧ fullSeen .w twoHeld = false ∧ exec (.prepare 0x33) twoHeld = .next (storeFrame 0x33 twoHeld) ∧
      filledSeen .r twoHeld ≠ 0 ∧ exec .use twoHeld = .next (deliverFrame 0xA1 twoHeld) :=
  ⟨twoHeld_sound, by decide, rfl, by decide, rfl⟩

theorem witness_SameCycleOrdersAgree :
    Sound twoHeld ∧ (twoHeld.cfg.syncMode = .shared → 0 < filledCount twoHeld ∧ filledCount twoHeld < twoHeld.cfg.n - 1) :=
  ⟨twoHeld_sound, by decide⟩

theorem witness_SameCycleAtTheBounds :
    (Sound emptyPool ∧ emptyPool.cfg.syncMode = .shared ∧ filledCount emptyPool = 0) ∧
      (Sound fullPool ∧ fullPool.cfg.syncMode = .shared ∧ filledCount fullPool = fullPool.cfg.n - 1) :=
  ⟨⟨emptyPool_sound, by decide, by decide⟩, fullPool_sound, by decide, by decide⟩

/-- An overrun and a hardware reset, each a step that answers a next state: for `OnlyNonesAreCounted`,
`StateHasItsOwners` and `StepKeepsTheInvariant`. -/
theorem witness_steps_answer :
    Sound (next (.portW 0x01 0x11) fullPool) ∧
      nextSatisfies (step (next (.portW 0x01 0x11) fullPool)) (fun t => decide (t.ocnt = 1)) = true ∧
      Sound (next .rst fullPool) ∧ nextSatisfies (step (next .rst fullPool)) (fun t => decide (t.w = 0)) = true :=
  ⟨sound_with_turns fullPool_sound _, by decide, sound_with_turns fullPool_sound _, by decide⟩

theorem witness_EveryLegalBlockIsSoundAfterReset : cfgL.Valid := by decide

/-- 95_test_vectors.md P5 steps 1 to 4, a run of SYNC_MODE = 1 from hardware reset. -/
theorem witness_ViewInvariantIsReachable :
    cfgL.Valid ∧ nextSatisfies (runSteps 4 { State.construct cfgL with
      pending := [.portW 0x01 0xF1, .portR 0x04, .syncW2R, .portR 0x04] })
      (fun t => decide (t.rOut = [⟨.none, 0, 0, 0⟩, ⟨.ok, 0, 0, 0xF1⟩] ∧ t.ucnt = 1 ∧ t.wv = 1)) = true := by decide

theorem witness_SoundBlocksAnswerEveryTurn :
    Sound (next (.portC 0x08) laggingPool) ∧ (next (.portC 0x08) laggingPool).pending.head?.all
      (admissible (next (.portC 0x08) laggingPool)) = true :=
  ⟨sound_with_turns laggingPool_sound _, by decide⟩

/-- A turn for each clause. -/
theorem witness_InadmissibleTurnsStopByName :
    Sound twoHeld ∧ admissible twoHeld (.portW 0x01 0x100) = false ∧ admissible twoHeld .syncR2W = false ∧
      admissible twoHeld .syncW2R = false ∧
      admissible { laggingPool with consumerRunning := true } (.portC 0x08) = false :=
  ⟨twoHeld_sound, by decide, by decide, by decide, by decide⟩

theorem witness_TheBlockIsABoundedQueue :
    Sound twoHeld ∧ contents twoHeld = [(0, 0xA1), (1, 0xA2)] := ⟨twoHeld_sound, by decide⟩

/-- 95_test_vectors.md E6 in small: one frame stored and the oldest delivered; the same from an empty pool at the last slot;
and a reset. -/
theorem witness_FramesAreDeliveredInOrder :
    (Sound { twoHeld with pending := [.portW 0x01 0xA3, .portR 0x04] } ∧
      ((journal 2 { twoHeld with pending := [.portW 0x01 0xA3, .portR 0x04] }).map fun x => (x.2.1, x.2.2)) =
        some ([(2, 0xA3)], [(0, 0xA1)])) ∧
    (contents emptyPool = [] ∧
      ((journal 2 { emptyPool with pending := [.portW 0x01 0xA3, .portR 0x04] }).map fun x => (x.2.1, x.2.2)) =
        some ([(3, 0xA3)], [(3, 0xA3)])) ∧
    (Sound (next (.portC 0x08) twoHeld) ∧
      nextSatisfies (step (next (.portC 0x08) twoHeld)) (fun t => decide (t.w = t.r)) = true) :=
  ⟨⟨sound_with_turns twoHeld_sound _, by decide⟩, ⟨by decide, by decide⟩, sound_with_turns twoHeld_sound _, by decide⟩

/-- Room for one PREPARE exactly, with a RESET and a USE before it. -/
theorem witness_RoomSeenStaysRoom :
    Sound { twoHeld with pending := [.portC 0x08, .portR 0x04] ++ .portW 0x01 0x11 :: [] } ∧
      [Turn.portC 0x08, .portR 0x04].countP isPrepareTurn < 4 - 1 - filledSeen .w twoHeld ∧
      4 - 1 - filledSeen .w twoHeld = 1 ∧ fullSeen .w twoHeld = false ∧
      nextSatisfies (runSteps 3 { twoHeld with pending := [.portC 0x08, .portR 0x04] ++ .portW 0x01 0x11 :: [] })
        (fun t => decide (t.wOut = [⟨.ok, 0, 0⟩])) = true :=
  ⟨sound_with_turns twoHeld_sound _, by decide, by decide, by decide, by decide⟩

/-- The second USE of two frames seen, with a PREPARE between. -/
theorem witness_FramesSeenStayFrames :
    Sound { twoHeld with pending := [.portR 0x04, .portW 0x01 0x11] ++ .portR 0x04 :: [] } ∧
      [Turn.portR 0x04, .portW 0x01 0x11].all (fun x => !isResetTurn x) = true ∧
      [Turn.portR 0x04, .portW 0x01 0x11].countP isUseTurn < filledSeen .r twoHeld ∧ filledSeen .r twoHeld = 2 ∧
      nextSatisfies (runSteps 3 { twoHeld with pending := [.portR 0x04, .portW 0x01 0x11] ++ .portR 0x04 :: [] })
        (fun t => decide (t.rOut = [⟨.ok, 0, 0, 0xA1⟩, ⟨.ok, 1, 0, 0xA2⟩])) = true :=
  ⟨sound_with_turns twoHeld_sound _, by decide, by decide, by decide, by decide⟩

/-- One pending turn under SYNC_MODE = 1. -/
theorem witness_RunsComeToTheirEnd :
    Sound { laggingFresh with pending := [.portR 0x04] } ∧
      ∀ x ∈ ([.portR 0x04] : List Turn), (∀ cmd f, x = .portW cmd f → cmd = 0x01 → cfgL.Fits f) ∧
        (cfgL.syncMode = .shared → x ≠ .syncR2W ∧ x ≠ .syncW2R) ∧ (cfgL.syncMode = .lagging → x ≠ .portC 0x08) :=
  ⟨sound_with_turns laggingFresh_sound _, by simp [cfgL]⟩

/-- Both views behind, one behind, and a block at its end. -/
theorem witness_IdleBlocksSettle :
    (Checked laggingPool ∧ laggingPool.pending = [] ∧ laggingPool.rv ≠ laggingPool.r) ∧
      (Checked laggingFresh ∧ laggingFresh.rv = laggingFresh.r ∧ laggingFresh.wv ≠ laggingFresh.w) ∧
      (Checked twoHeld ∧ twoHeld.pending = [] ∧ atEnd twoHeld = true) := by decide

theorem witness_ReferenceProducerHoldsAndRetries :
    Sound fullPool ∧ fullSeen .w fullPool = true ∧ Sound twoHeld ∧ fullSeen .w twoHeld = false ∧ cfgT.Fits 0xC2 :=
  ⟨fullPool_sound, by decide, twoHeld_sound, by decide, by decide⟩

theorem witness_CheckFirstProducerNeverOverruns :
    Sound fullPool ∧ (∀ f, (none : Option Frame) = some f → cfgT.Fits f) ∧ ∀ f, some 0xC2 = some f → cfgT.Fits f :=
  ⟨fullPool_sound, by simp, by intro f h; cases h; decide⟩

theorem witness_ConsumerGivesTheDeviceOneFrame :
    (Sound emptyPool ∧ filledSeen .r emptyPool = 0) ∧ (Sound twoHeld ∧ filledSeen .r twoHeld ≠ 0) :=
  ⟨⟨emptyPool_sound, by decide⟩, twoHeld_sound, by decide⟩

theorem witness_LinesAreTranscribed : cfgT.Fits (id 7) ∧ 8 ≤ cfgT.frameBits := by decide

theorem witness_IllegalConfigurationsAreRefused :
    ¬ ({ cfgT with n := 1 } : Config).Valid ∧ cfgT.Valid ∧
      ¬ (holding none (block { cfgT with n := 1 } 0 0)).block.cfg.Valid := by decide

/-! ### The agents' programs, interleaved -/

/-- The outcome is a next system that satisfies the test. -/
def nextSystem (o : Host.Outcome System Fault Refusal) (test : System → Bool) : Bool :=
  match o with
  | .next y => test y
  | .fault _ => false
  | .refused _ => false

/-- Two frames held, with a RESET to come, and the check-first Producer. -/
def checkFirstSystem : System := System.around .checkFirst { twoHeld with pending := [.portC 0x08] }

/-- A RESET and the Consumer's USE fall between the Producer's ISFULL and its PREPARE, and then the copy to the device. -/
theorem test_moves_interleave :
    nextSystem (runMoves [.nextCycle, .producer none, .block, .producer (some 0x11), .callback, .consumer, .producer none,
        .consumer] checkFirstSystem)
      (fun y => decide (y.block.w = 1 ∧ y.block.r = 0 ∧ y.block.wOut = [⟨.ok, 0, 0⟩, ⟨.ok, 0, 0⟩] ∧ y.block.ucnt = 1 ∧
        y.device = [0] ∧ y.held = none ∧ y.producerAt = .idle ∧ y.consumerAt = .idle)) = true := by decide

/-- 70_reset_and_hazards.md R285: on a full pool the Producer backs off, a USE makes `w_full` fall, and it starts again. -/
theorem test_producer_backs_off :
    nextSystem (runMoves [.nextCycle, .producer (some 0xC2), .producer none, .producer none, .callback, .consumer,
        .producer none] (System.around .holdAndRetry fullPool))
      (fun y => decide (y.held = some 0xC2 ∧ y.producerAt = .start ∧ y.consumerAt = .copyOut 0xA1 ∧ y.block.ocnt = 1)) =
        true := by decide

/-- A system for each clause: the positions, both programs, a frame held and none. -/
theorem witness_ProducerFollowsItsProgram :
    (Sound (System.around .holdAndRetry twoHeld).block ∧ (System.around .holdAndRetry twoHeld).producerAt = .idle) ∧
      ({ holding none twoHeld with producerAt := .start } : System).program = .holdAndRetry ∧
      ({ holding none twoHeld with producerAt := .start } : System).held = none ∧
      ({ checkFirstSystem with producerAt := .start } : System).program = .checkFirst ∧
      (({ holding (some 0xC2) fullPool with producerAt := .offer } : System).held = some 0xC2 ∧ Sound fullPool ∧
        fullPool.cfg.Fits 0xC2 ∧ wFull fullPool = true) :=
  ⟨⟨twoHeld_sound, rfl⟩, rfl, rfl, rfl, rfl, fullPool_sound, by decide, by decide⟩

theorem witness_ConsumerFollowsItsProgram :
    (Sound emptyPool ∧ filledSeen .r emptyPool = 0) ∧ (Sound twoHeld ∧ filledSeen .r twoHeld ≠ 0) ∧
      ({ holding none twoHeld with consumerAt := .copyOut 0xA1 } : System).consumerAt = .copyOut 0xA1 :=
  ⟨⟨emptyPool_sound, by decide⟩, ⟨twoHeld_sound, by decide⟩, rfl⟩

/-- A move of each agent and of the block that answers. -/
theorem witness_MovesLeaveTheOtherAgents :
    nextSystem (systemStep (.producer none) (holding none twoHeld)) (fun _ => true) = true ∧
      nextSystem (systemStep .nextCycle (holding none twoHeld)) (fun y => decide (y.producerAt = .start)) = true ∧
      nextSystem (systemStep .consumer (holding none twoHeld)) (fun _ => true) = true ∧
      nextSystem (systemStep .block checkFirstSystem) (fun y => decide (y.block.w = 0)) = true := by decide

theorem witness_UndisturbedProgramsAreTheCycles :
    ((holding none twoHeld).producerAt = .idle ∧ (holding none twoHeld).program = .holdAndRetry) ∧
      (checkFirstSystem.producerAt = .idle ∧ checkFirstSystem.program = .checkFirst) ∧
      (holding none twoHeld).consumerAt = .idle := by decide

theorem witness_CheckFirstNeverOverrunsInterleaved :
    CheckFirstSound checkFirstSystem ∧ CheckFirstSound { checkFirstSystem with producerAt := .render } :=
  ⟨⟨sound_with_turns twoHeld_sound _, rfl, by decide, by decide⟩, sound_with_turns twoHeld_sound _, rfl, by decide, by decide⟩

/-- A system under SYNC_MODE = 1 with a RESET next. -/
def resetNext : System := System.around .checkFirst (next (.portC 0x08) laggingPool)

/-- 70_reset_and_hazards.md R281: a RESET while the Consumer stands before its first USE is a fault, though it was told to
stop; once it is through and is stopped, the RESET has its effect. -/
theorem test_reset_inside_callback :
    runMoves [.callback, .stop .r, .block] resetNext = .fault .resetWhileRunning ∧
      nextSystem (runMoves [.callback, .consumer, .consumer, .stop .r, .block] resetNext)
        (fun y => decide (y.block.w = y.block.r ∧ y.block.rv = y.block.r ∧ y.block.cOut = [⟨.ok, 0⟩])) = true :=
  ⟨by rfl, by decide⟩

/-- A system for each clause: an agent inside its program, a bit set, and both between cycles and stopped. -/
theorem witness_ResetFaultsInsideAProgram :
    (Checked resetNext.block ∧ resetNext.block.cfg.syncMode = .lagging ∧ resetNext.block.pending = .portC 0x08 :: []) ∧
      ({ resetNext with producerAt := .render } : System).producerAt ≠ .idle ∧
      ({ resetNext with consumerAt := .use } : System).consumerAt ≠ .idle ∧
      (noteAgent .w resetNext).block.producerRunning = true ∧
      ({ resetNext with producerAt := .backOff } : System).producerAt = .backOff ∧
      (resetNext.producerAt = .idle ∧ resetNext.consumerAt = .idle ∧ resetNext.block.producerRunning = false ∧
        resetNext.block.consumerRunning = false) := by decide

end Sys2Proof.Tests
end

section
/-! The scope of the block (spec/00_scope.md): arithmetic modulo N, the derived parameters, the block right after its
construction, and what an illegal configuration or an unsound state stops. -/

namespace Sys2Proof

variable {c : Config}

/-- IDX_W is at most `k` exactly when `k` is a width, at least 1, with an encoding for each of the N cursor values. -/
theorem Config.idxW_le_iff (h : 2 ≤ c.n) (k : Nat) : c.idxW ≤ k ↔ 1 ≤ k ∧ c.n ≤ 2 ^ k := by
  have hlog : (c.n - 1).log2 < k ↔ c.n - 1 < 2 ^ k := Nat.log2_lt (by omega)
  unfold Config.idxW
  omega

/-- CADENCE seconds of SAMPLE_RATE samples each are one frame. -/
theorem Config.cadence_mul_sampleRate (h : 1 ≤ c.sampleRate) : c.cadence * (c.sampleRate : ℚ) = (c.frameLength : ℚ) :=
  div_mul_cancel₀ _ (Nat.cast_ne_zero.mpr (Nat.one_le_iff_ne_zero.mp h))

end Sys2Proof

namespace Sys2Proof.Machine

variable {s : State} {c : Config} {y : System}

/-! ### Arithmetic and parameters -/

/-- Settles O1. -/
theorem modularArithmeticIsModuloN : Obligations.ModularArithmeticIsModuloN := by
  intro n a b ha hb
  exact ⟨rfl, rfl, incN_lt ha, subN_lt ha hb, incN_eq_mod ha, subN_eq_emod ha hb⟩

/-- Settles O2: that IDX_W is the least width is `Config.idxW_le_iff`, read at IDX_W itself and at any other width. -/
theorem derivedParameters : Obligations.DerivedParameters := by
  refine ⟨fun c hv => ?_, by decide, by decide, by decide, by decide, ?_⟩
  · obtain ⟨⟨hn, -⟩, -, -, hrate, -⟩ := hv
    obtain ⟨hpos, henough⟩ := (Config.idxW_le_iff hn c.idxW).mp le_rfl
    have hleast : ∀ k, 1 ≤ k → c.n ≤ 2 ^ k → c.idxW ≤ k := fun k hk hnk => (Config.idxW_le_iff hn k).mpr ⟨hk, hnk⟩
    exact ⟨⟨hpos, henough, hleast⟩, rfl, rfl, rfl, Config.cadence_mul_sampleRate hrate⟩
  · norm_num [Config.cadence, Config.default]

/-! ### The block after its construction -/

/-- With the cursors equal and both sides seeing them so, as every reset leaves them, the view invariant holds. -/
theorem viewsSound_of_aligned (hrange : s.cfg.syncMode = .lagging → s.rv < s.cfg.n ∧ s.wv < s.cfg.n)
    (hread : readIndexSeen s = s.w) (hwrite : writeIndexSeen s = s.w) (hr : s.r = s.w) : ViewsSound s where
  range := hrange
  writeSide := by simp [filledSeen_w, filledCount, hread, hr]
  writeBound := by simp [filledSeen_w, hread]
  readSide := by simp [filledSeen_r, filledCount, hwrite, hr]

theorem readIndexSeen_construct (c : Config) (ts : List Turn) :
    readIndexSeen { State.construct c with pending := ts } = 0 := by
  unfold readIndexSeen; split <;> rfl

theorem writeIndexSeen_construct (c : Config) (ts : List Turn) :
    writeIndexSeen { State.construct c with pending := ts } = 0 := by
  unfold writeIndexSeen; split <;> rfl

theorem poolSlots_construct (c : Config) (ts : List Turn) :
    poolSlots { State.construct c with pending := ts } = [] :=
  poolSlots_eq_nil subN_self

/-- The block of a legal configuration after hardware reset, with any turns to come: the cursors are 0 and in range, since
N is positive, and there is no slot, no undelivered frame and no response to speak of. -/
theorem sound_construct (hv : c.Valid) (ts : List Turn) : Sound { State.construct c with pending := ts } :=
  have hn : 0 < c.n := Nat.lt_of_lt_of_le Nat.two_pos hv.1.1
  { valid := hv
    w_lt := hn
    r_lt := hn
    views := viewsSound_of_aligned (fun _ => ⟨hn, hn⟩) (readIndexSeen_construct c ts) (writeIndexSeen_construct c ts) rfl
    ocnt_lt := Nat.two_pow_pos c.cntW
    ucnt_lt := Nat.two_pow_pos c.cntW
    slots_wf := reset_slots_wf c
    slots_lt := fun _ he => absurd he List.not_mem_nil
    slots_fit := fun _ he => absurd he List.not_mem_nil
    written := fun i hi => by simp [poolSlots_construct c ts] at hi
    statuses := rfl }

/-- Settles O38. -/
theorem everyLegalBlockIsSoundAfterReset : Obligations.EveryLegalBlockIsSoundAfterReset :=
  fun _ ts hv => sound_construct hv ts

/-! ### What stops a step before its turn -/

theorem cursorsInRange_eq_false_iff : cursorsInRange s = false ↔
    s.cfg.n ≤ s.w ∨ s.cfg.n ≤ s.r ∨ (s.cfg.syncMode = .lagging ∧ (s.cfg.n ≤ s.rv ∨ s.cfg.n ≤ s.wv)) := by
  unfold cursorsInRange
  cases s.cfg.syncMode with
  | shared => simp [-Bool.and_eq_false_imp, Bool.and_eq_false_iff]
  | lagging => simp only [Bool.and_eq_false_iff, decide_eq_false_iff_not, not_lt, or_assoc, true_and]

theorem statusesProduced_eq_false_iff : statusesProduced s = false ↔
    (∃ x ∈ s.wOut, x.status = .reserved) ∨ (∃ x ∈ s.rOut, x.status = .reserved) ∨
      (∃ x ∈ s.cOut, x.status = .reserved) := by
  simp only [statusesProduced, Bool.and_eq_false_iff, List.all_eq_false, decide_eq_true_eq, not_not, or_assoc]

theorem step_cursorOutOfRange (hv : s.cfg.Valid) (hc : cursorsInRange s = false) :
    step s = .fault .cursorOutOfRange := by
  unfold step takeStep
  rw [if_neg (not_not.mpr hv), if_pos hc]

theorem step_reservedStatus (hv : s.cfg.Valid) (hc : cursorsInRange s = true) (hp : statusesProduced s = false) :
    step s = .fault .reservedStatus := by
  unfold step takeStep
  rw [if_neg (not_not.mpr hv), if_neg (by simp [hc]), if_pos hp]

/-- Settles O14. -/
theorem unsoundBlocksStop : Obligations.UnsoundBlocksStop := by
  intro s
  refine ⟨step_illegal_config, fun hv hout => ?_, fun hv hc hres => ?_⟩
  · exact step_cursorOutOfRange hv (cursorsInRange_eq_false_iff.mpr hout)
  · exact step_reservedStatus hv hc (statusesProduced_eq_false_iff.mpr hres)

/-! ### Illegal configurations -/

theorem configure_legal (h : c.Valid) : configure c = .next (State.construct c) := if_pos h

@[simp] theorem noteAgent_cfg (d : DataPort) : (noteAgent d y).block.cfg = y.block.cfg := setRunning_cfg y.block d true

theorem systemStep_illegal_config (h : ¬ y.block.cfg.Valid) (m : Move) : systemStep m y = .refused .invalidConfig :=
  if_neg h

/-- Whether a render gives a frame or fails, the cycle is refused: its PREPARE reaches no block, and neither does the
skip. -/
theorem renderAndOffer_illegal_config (h : ¬ y.block.cfg.Valid) (render : Option Frame) :
    renderAndOffer render y = .refused .invalidConfig := by
  unfold renderAndOffer
  split
  · exact skipCycle_illegal_config h
  · exact issue_illegal_config h

theorem producerCycle_illegal_config (h : ¬ y.block.cfg.Valid) (render : Option Frame) :
    producerCycle render y = .refused .invalidConfig :=
  renderAndOffer_illegal_config (by rwa [noteAgent_cfg]) render

theorem checkFirstCycle_illegal_config (h : ¬ y.block.cfg.Valid) (render : Option Frame) :
    checkFirstCycle render y = .refused .invalidConfig :=
  issue_illegal_config (by rwa [noteAgent_cfg])

theorem consumerTick_illegal_config (h : ¬ y.block.cfg.Valid) : consumerTick y = .refused .invalidConfig :=
  issue_illegal_config (by rwa [noteAgent_cfg])

/-- Settles O53: construction, the moves, the step and the three whole cycles, each by its own refusal. -/
theorem illegalConfigurationsAreRefused : Obligations.IllegalConfigurationsAreRefused := by
  refine ⟨fun c => ⟨configure_illegal, configure_legal⟩, fun y render h => ?_⟩
  exact ⟨systemStep_illegal_config h, step_illegal_config h, producerCycle_illegal_config h render,
    checkFirstCycle_illegal_config h render, consumerTick_illegal_config h⟩

end Sys2Proof.Machine
end

section
/-! The state of the block (spec/10_state.md): the views and the status outputs, the invariant `Sound`, which every operation
keeps, and who writes what. -/

namespace Sys2Proof.Machine

variable {s t u : State} {o : Option Turn}

/-! ### Views and status outputs -/

theorem readIndexSeen_shared (h : s.cfg.syncMode = .shared) : readIndexSeen s = s.r := by simp [readIndexSeen, h]

theorem readIndexSeen_lagging (h : s.cfg.syncMode = .lagging) : readIndexSeen s = s.rv := by simp [readIndexSeen, h]

theorem writeIndexSeen_shared (h : s.cfg.syncMode = .shared) : writeIndexSeen s = s.w := by simp [writeIndexSeen, h]

theorem writeIndexSeen_lagging (h : s.cfg.syncMode = .lagging) : writeIndexSeen s = s.wv := by simp [writeIndexSeen, h]

/-- Settles O20. -/
theorem viewsByMode : Obligations.ViewsByMode := fun _ =>
  ⟨fun h => ⟨readIndexSeen_shared h, writeIndexSeen_shared h⟩, fun h => ⟨readIndexSeen_lagging h, writeIndexSeen_lagging h⟩⟩

/-- `w_full` is what ISFULL on W answers with. -/
theorem wFull_eq_fullSeen (s : State) : wFull s = fullSeen .w s := rfl

theorem zext32_bit (b : Bool) : zext32 (if b then 1 else 0) = if b then 1 else 0 := by cases b <;> rfl

/-- Settles O24. -/
theorem statusOutputsAreTheQueries : Obligations.StatusOutputsAreTheQueries := by
  intro s
  have hfull : exec (.isFull .w) s = .next { s with wOut := s.wOut ++ [⟨.ok, 0, if wFull s then 1 else 0⟩] } := by
    rw [wFull_eq_fullSeen, ← zext32_bit]
    rfl
  exact ⟨rfl, rfl, hfull, decide_eq_true_iff, rfl, decide_eq_true_iff, rfl⟩

/-- A checked block takes the first of its turns. -/
theorem step_of_pending {turn : Turn} {rest : List Turn} (h : Checked s) (hp : s.pending = turn :: rest) :
    step s = runTurn turn { s with pending := rest } := by
  obtain ⟨hvalid, hrange, hstatus⟩ := h
  rw [step_eq_runNext hvalid hrange hstatus, runNext, hp]

theorem runSync_lagging {move : State → State} (h : s.cfg.syncMode = .lagging) : runSync move s = .next (move s) := by
  simp [runSync, h]

theorem runSync_shared {move : State → State} (h : s.cfg.syncMode = .shared) :
    runSync move s = .refused .noSyncAgent := by
  simp [runSync, h]

/-- Settles O10. -/
theorem syncStepsMoveTheViews : Obligations.SyncStepsMoveTheViews := by
  refine fun s rest hc => ⟨fun hl => ⟨fun hp => ?_, fun hp => ?_⟩, fun hs hp => ?_⟩
  · exact (step_of_pending hc hp).trans (runSync_lagging hl)
  · exact (step_of_pending hc hp).trans (runSync_lagging hl)
  · obtain hp | hp := hp
    · exact (step_of_pending hc hp).trans (runSync_shared hs)
    · exact (step_of_pending hc hp).trans (runSync_shared hs)

/-! ### States with the same pool -/

/-- Both states are of one configuration and have the same cursors, views and slots: they differ at most in counters,
responses, turns to come and who runs. -/
structure SamePool (s t : State) : Prop where
  cfg : t.cfg = s.cfg
  w : t.w = s.w
  r : t.r = s.r
  rv : t.rv = s.rv
  wv : t.wv = s.wv
  slots : t.slots = s.slots

theorem SamePool.respond (p : Port) (st : Status) (slot : Nat) (v : Value) (f : Frame) (s : State) :
    SamePool s (respond p st slot v f s) := by constructor <;> simp

theorem SamePool.raise (c : Condition) (s : State) : SamePool s (raise c s) := by constructor <;> simp

theorem SamePool.noteCommand (d : DataPort) (cmd : Byte) (s : State) : SamePool s (noteCommand d cmd s) := by
  constructor <;> simp

theorem SameBlock.samePool (h : SameBlock s u) : SamePool s u := by
  obtain ⟨ts, a, b, rfl⟩ := h
  constructor <;> rfl

theorem SamePool.filledSeen_eq (h : SamePool s t) (p : DataPort) : filledSeen p t = filledSeen p s := by
  cases p with
  | w => rw [filledSeen_w, filledSeen_w, readIndexSeen_congr h.cfg h.r h.rv, h.cfg, h.w]
  | r => rw [filledSeen_r, filledSeen_r, writeIndexSeen_congr h.cfg h.w h.wv, h.cfg, h.r]

theorem SamePool.fullSeen_eq (h : SamePool s t) (p : DataPort) : fullSeen p t = fullSeen p s := by
  simp only [fullSeen, h.cfg, h.filledSeen_eq p]

theorem SamePool.filledCount_eq (h : SamePool s t) : filledCount t = filledCount s := by
  simp only [filledCount, h.cfg, h.w, h.r]

theorem SamePool.poolSlots_eq (h : SamePool s t) : poolSlots t = poolSlots s := by
  simp only [poolSlots, h.cfg, h.r, h.filledCount_eq]

theorem SamePool.viewsSound (h : SamePool s t) (hs : ViewsSound s) : ViewsSound t where
  range := by rw [h.cfg, h.rv, h.wv]; exact hs.range
  writeSide := by
    rw [h.filledSeen_eq, h.filledCount_eq, h.cfg, h.r, readIndexSeen_congr h.cfg h.r h.rv]; exact hs.writeSide
  writeBound := by rw [h.filledSeen_eq, h.cfg]; exact hs.writeBound
  readSide := by
    rw [h.filledSeen_eq, h.filledCount_eq, h.cfg, h.w, writeIndexSeen_congr h.cfg h.w h.wv]; exact hs.readSide

/-- The invariant of the pool is that of any state with the same pool; the counters and responses are on their own. -/
theorem SamePool.sound (h : SamePool s t) (hs : Sound s) (ho : t.ocnt < 2 ^ s.cfg.cntW) (hu : t.ucnt < 2 ^ s.cfg.cntW)
    (hst : statusesProduced t = true) : Sound t where
  valid := h.cfg ▸ hs.valid
  w_lt := by rw [h.w, h.cfg]; exact hs.w_lt
  r_lt := by rw [h.r, h.cfg]; exact hs.r_lt
  views := h.viewsSound hs.views
  ocnt_lt := by rwa [h.cfg]
  ucnt_lt := by rwa [h.cfg]
  slots_wf := by rw [h.slots]; exact hs.slots_wf
  slots_lt := by rw [h.slots, h.cfg]; exact hs.slots_lt
  slots_fit := by rw [h.slots, h.cfg]; exact hs.slots_fit
  written := by rw [h.poolSlots_eq, h.slots]; exact hs.written
  statuses := hst

/-! ### The counts of a sound state -/

/-- The read side's count errs to the low side (10_state.md R40). -/
theorem ViewsSound.filledSeen_r_le (h : ViewsSound s) : filledSeen .r s ≤ filledCount s := by
  have := h.readSide
  omega

/-- The write side's count errs to the high side (10_state.md R40). -/
theorem ViewsSound.filledCount_le (h : ViewsSound s) : filledCount s ≤ filledSeen .w s := by
  have := h.writeSide
  omega

theorem ViewsSound.filledCount_le_capacity (h : ViewsSound s) : filledCount s ≤ s.cfg.n - 1 :=
  h.filledCount_le.trans h.writeBound

theorem ViewsSound.filledSeen_le_capacity (h : ViewsSound s) : ∀ p, filledSeen p s ≤ s.cfg.n - 1
  | .w => h.writeBound
  | .r => h.filledSeen_r_le.trans h.filledCount_le_capacity

/-- Where the write side sees room there is room. -/
theorem ViewsSound.filledCount_lt (h : ViewsSound s) (hroom : fullSeen .w s = false) : filledCount s < s.cfg.n - 1 :=
  h.filledCount_le.trans_lt ((fullSeen_false_iff .w).mp hroom)

/-- Where the read side sees a frame there is one. -/
theorem ViewsSound.filledCount_ne_zero (h : ViewsSound s) (hframe : filledSeen .r s ≠ 0) : filledCount s ≠ 0 := by
  have := h.filledSeen_r_le
  omega

/-- Settles O23. -/
theorem countsAreInRange : Obligations.CountsAreInRange := by
  intro s hs
  have hbound := hs.views.filledSeen_le_capacity
  have hcount := hs.views.filledCount_le_capacity
  have h32 : s.cfg.n ≤ 2 ^ 32 := hs.valid.1.2
  refine ⟨fun p => ⟨hbound p, ?_, ?_⟩, hs.views.filledSeen_r_le, hs.views.filledCount_le, hcount, ?_, ?_⟩
  · have hlt : s.cfg.n - 1 < s.cfg.n := Nat.sub_one_lt_of_lt hs.w_lt
    exact zext32_toNat ((hbound p).trans_lt (hlt.trans_le h32))
  · rw [fullSeen_iff]
    exact (hbound p).ge_iff_eq
  · rw [poolFull, decide_eq_true_iff]
    exact hcount.ge_iff_eq
  · rw [poolEmpty, decide_eq_true_iff]
    exact subN_eq_zero_iff hs.r_lt

/-! ### The view invariant through the operations -/

/-- With one shared view of both cursors the view invariant says no more than their ranges. -/
theorem viewsSound_shared (hm : s.cfg.syncMode = .shared) (hw : s.w < s.cfg.n) (hr : s.r < s.cfg.n) : ViewsSound s where
  range := by simp [hm]
  writeSide := by simp [filledSeen_w, filledCount, readIndexSeen_shared hm]
  writeBound := by
    rw [filledSeen_w, readIndexSeen_shared hm]
    exact Nat.le_sub_one_of_lt (subN_lt hw hr)
  readSide := by simp [filledSeen_r, filledCount, writeIndexSeen_shared hm]

/-- Under SYNC_MODE = 1 a store advances `W` against both views and against `R`, since `W` is less than a full round ahead of
each. -/
theorem viewsSound_storeFrame (hs : Sound s) (hroom : fullSeen .w s = false) (f : Frame) :
    ViewsSound (storeFrame f s) := by
  obtain ⟨hrange, hwrite, hbound, hread⟩ := hs.views
  cases hm : s.cfg.syncMode with
  | shared => exact viewsSound_shared hm (incN_lt hs.w_lt) hs.r_lt
  | lagging =>
    obtain ⟨hrv, hwv⟩ := hrange hm
    have hlt := (fullSeen_false_iff .w).mp hroom
    have hcount := filledCount_storeFrame f hs.w_lt hs.r_lt (hs.views.filledCount_lt hroom)
    have hm' : (storeFrame f s).cfg.syncMode = .lagging := hm
    simp only [filledSeen_w, filledSeen_r, readIndexSeen_lagging hm, writeIndexSeen_lagging hm] at hwrite hbound hread hlt
    have hseen := subN_incN_left hs.w_lt hrv hlt
    have hlag := subN_incN_left hs.w_lt hwv (by omega)
    constructor
    · exact hrange
    all_goals
      simp only [filledSeen_w, filledSeen_r, readIndexSeen_lagging hm', writeIndexSeen_lagging hm', hcount, storeFrame_cfg,
        storeFrame_w, storeFrame_r, storeFrame_rv, storeFrame_wv]
      omega

/-- Under SYNC_MODE = 1 a delivery advances `R` away from the write side's view and towards the read side's. -/
theorem viewsSound_deliverFrame (hs : Sound s) (hframe : filledSeen .r s ≠ 0) (f : Frame) :
    ViewsSound (deliverFrame f s) := by
  obtain ⟨hrange, hwrite, hbound, hread⟩ := hs.views
  cases hm : s.cfg.syncMode with
  | shared => exact viewsSound_shared hm hs.w_lt (incN_lt hs.r_lt)
  | lagging =>
    obtain ⟨hrv, hwv⟩ := hrange hm
    have hcount := filledCount_deliverFrame f hs.w_lt hs.r_lt (hs.views.filledCount_ne_zero hframe)
    have hm' : (deliverFrame f s).cfg.syncMode = .lagging := hm
    simp only [filledSeen_w, filledSeen_r, readIndexSeen_lagging hm, writeIndexSeen_lagging hm] at hwrite hbound hread hframe
    have hseen := subN_incN_right hwv hs.r_lt hframe
    have hlag := subN_incN_left hs.r_lt hrv (by omega)
    constructor
    · exact hrange
    all_goals
      simp only [filledSeen_w, filledSeen_r, readIndexSeen_lagging hm', writeIndexSeen_lagging hm', deliverFrame_cfg,
        deliverFrame_w, deliverFrame_r, deliverFrame_rv, deliverFrame_wv]
      omega

@[simp] theorem readIndexSeen_syncReadToWrite (s : State) : readIndexSeen (syncReadToWrite s) = s.r := by
  unfold readIndexSeen
  split <;> rfl

@[simp] theorem writeIndexSeen_syncWriteToRead (s : State) : writeIndexSeen (syncWriteToRead s) = s.w := by
  unfold writeIndexSeen
  split <;> rfl

/-- SYNC_R2W brings the write side's count down to the true one and leaves the read side's as it is. -/
theorem viewsSound_syncReadToWrite (hs : Sound s) : ViewsSound (syncReadToWrite s) where
  range := fun hm => ⟨hs.r_lt, (hs.views.range hm).2⟩
  writeSide := by simp [filledSeen_w, filledCount]
  writeBound := by rw [filledSeen_w, readIndexSeen_syncReadToWrite]; exact hs.views.filledCount_le_capacity
  readSide := hs.views.readSide

/-- SYNC_W2R brings the read side's count up to the true one and leaves the write side's as it is. -/
theorem viewsSound_syncWriteToRead (hs : Sound s) : ViewsSound (syncWriteToRead s) where
  range := fun hm => ⟨(hs.views.range hm).1, hs.w_lt⟩
  writeSide := hs.views.writeSide
  writeBound := hs.views.writeBound
  readSide := by simp [filledSeen_r, filledCount]

/-! ### The invariant through the operations -/

/-- A response of a status other than `0b11` keeps the record of statuses produced (30_encoding.md R108). -/
theorem statusesProduced_respond {p : Port} {st : Status} {slot : Nat} {v : Value} {f : Frame} (h : st ≠ .reserved) :
    statusesProduced (respond p st slot v f s) = statusesProduced s := by
  cases p <;> simp [statusesProduced, h, Bool.and_right_comm]

theorem statusesProduced_raise (c : Condition) : statusesProduced (raise c s) = statusesProduced s := by
  cases c <;> exact statusesProduced_respond (by decide)

theorem Sound.sameBlock (hs : Sound s) (h : SameBlock s u) : Sound u := by
  have hpool := h.samePool
  obtain ⟨ts, a, b, rfl⟩ := h
  exact hpool.sound hs hs.ocnt_lt hs.ucnt_lt hs.statuses

theorem Sound.respond {p : Port} {st : Status} {slot : Nat} {v : Value} {f : Frame} (hs : Sound s) (h : st ≠ .reserved) :
    Sound (respond p st slot v f s) :=
  (SamePool.respond p st slot v f s).sound hs (by simpa using hs.ocnt_lt) (by simpa using hs.ucnt_lt)
    ((statusesProduced_respond h).trans hs.statuses)

/-- A raised condition counts modulo `2^CNT_W` (00_scope.md R15) or not at all. -/
theorem Sound.raise (hs : Sound s) (c : Condition) : Sound (raise c s) := by
  refine (SamePool.raise c s).sound hs ?_ ?_ ((statusesProduced_raise c).trans hs.statuses)
  · cases c with
    | overrun => exact countUp_lt _ _
    | underrun => exact hs.ocnt_lt
    | illegal p => simpa using hs.ocnt_lt
  · cases c with
    | overrun => exact hs.ucnt_lt
    | underrun => exact countUp_lt _ _
    | illegal p => simpa using hs.ucnt_lt

/-- The frame of a store is written, and the slots of the older frames are others (20_memory.md R82). -/
theorem written_storeFrame (hs : Sound s) (hroom : fullSeen .w s = false) (f : Frame) :
    ∀ i ∈ poolSlots (storeFrame f s), (memRead (storeFrame f s).slots i).isSome := by
  intro i hi
  rw [poolSlots_storeFrame f hs.w_lt hs.r_lt (hs.views.filledCount_lt hroom), List.mem_append, List.mem_singleton] at hi
  rw [storeFrame_slots]
  obtain hi | rfl := hi
  · have hne : i ≠ s.w := fun h => w_notMem_poolSlots hs.w_lt hs.r_lt (h ▸ hi)
    rw [memRead_memWrite_ne _ _ hne]
    exact hs.written i hi
  · rw [memRead_memWrite_same]
    rfl

theorem Sound.storeFrame {f : Frame} (hs : Sound s) (hroom : fullSeen .w s = false) (hfit : s.cfg.Fits f) :
    Sound (storeFrame f s) where
  valid := hs.valid
  w_lt := incN_lt hs.w_lt
  r_lt := hs.r_lt
  views := viewsSound_storeFrame hs hroom f
  ocnt_lt := hs.ocnt_lt
  ucnt_lt := hs.ucnt_lt
  slots_wf := memWrite_wf hs.slots_wf
  slots_lt := fun e he => by
    obtain rfl | he := mem_memWrite he
    · exact hs.w_lt
    · exact hs.slots_lt e he
  slots_fit := fun e he => by
    obtain rfl | he := mem_memWrite he
    · exact hfit
    · exact hs.slots_fit e he
  written := written_storeFrame hs hroom f
  statuses := (statusesProduced_respond (by decide)).trans hs.statuses

theorem Sound.deliverFrame (hs : Sound s) (hframe : filledSeen .r s ≠ 0) (f : Frame) : Sound (deliverFrame f s) where
  valid := hs.valid
  w_lt := hs.w_lt
  r_lt := incN_lt hs.r_lt
  views := viewsSound_deliverFrame hs hframe f
  ocnt_lt := hs.ocnt_lt
  ucnt_lt := hs.ucnt_lt
  slots_wf := hs.slots_wf
  slots_lt := hs.slots_lt
  slots_fit := hs.slots_fit
  written := fun i hi => hs.written i <| by
    rw [poolSlots_deliverFrame f hs.w_lt hs.r_lt (hs.views.filledCount_ne_zero hframe)]
    exact List.mem_cons_of_mem _ hi
  statuses := (statusesProduced_respond (by decide)).trans hs.statuses

theorem resetCursors_r_lt (hr : s.r < s.cfg.n) : (resetCursors s).r < s.cfg.n := by
  rw [resetCursors_r]
  split
  · exact hr
  · exact Nat.zero_lt_of_lt hr

/-- RESET leaves an empty pool, in which every view stands at its cursor. -/
theorem Sound.resetCursors (hs : Sound s) : Sound (resetCursors s) := by
  obtain ⟨hread, hwrite, hrw⟩ := seen_resetCursors (s := s)
  have hr := resetCursors_r_lt hs.r_lt
  have hw : (Machine.resetCursors s).w < s.cfg.n := hrw ▸ hr
  have hempty : poolSlots (Machine.resetCursors s) = [] := poolSlots_eq_nil (by simp [filledCount, hrw])
  have hrange (hm : s.cfg.syncMode = .lagging) :
      (Machine.resetCursors s).rv < s.cfg.n ∧ (Machine.resetCursors s).wv < s.cfg.n := by
    rw [(resetCursors_views s hm).1, (resetCursors_views s hm).2]
    exact ⟨hr, hw⟩
  exact
    { valid := by simpa using hs.valid
      w_lt := by simpa using hw
      r_lt := by simpa using hr
      views := viewsSound_of_aligned (by simpa using hrange) hread hwrite hrw
      ocnt_lt := by simpa using hs.ocnt_lt
      ucnt_lt := by simpa using hs.ucnt_lt
      slots_wf := resetCursors_slots_wf hs.slots_wf
      slots_lt := by simpa using hs.slots_lt
      slots_fit := by simpa using hs.slots_fit
      written := by simp [hempty]
      statuses := by simpa [statusesProduced] using hs.statuses }

/-- Hardware reset leaves what the first one left (70_reset_and_hazards.md R270), but for the record of responses. -/
theorem Sound.hardwareReset (hs : Sound s) : Sound (hardwareReset s) := by
  have hpool : SamePool { State.construct s.cfg with pending := [] } (Machine.hardwareReset s) := by
    constructor <;> rfl
  exact hpool.sound (sound_construct hs.valid []) (Nat.two_pow_pos _) (Nat.two_pow_pos _) hs.statuses

theorem Sound.syncReadToWrite (hs : Sound s) : Sound (syncReadToWrite s) :=
  { hs with views := viewsSound_syncReadToWrite hs }

theorem Sound.syncWriteToRead (hs : Sound s) : Sound (syncWriteToRead s) :=
  { hs with views := viewsSound_syncWriteToRead hs }

/-! ### The invariant through steps and runs -/

theorem Effect.sound (h : Effect o u t) (hs : Sound u) : Sound t := by
  cases h with
  | nothing => exact hs
  | answered p st v hst => exact hs.respond (by rintro rfl; simp at hst)
  | overrun => exact hs.raise .overrun
  | stored f hroom hfit => exact hs.storeFrame hroom hfit
  | underrun => exact hs.raise .underrun
  | delivered f hframe => exact hs.deliverFrame hframe f
  | reset => exact hs.resetCursors.respond (by decide)
  | rst => exact hs.hardwareReset
  | readToWrite => exact hs.syncReadToWrite
  | writeToRead => exact hs.syncWriteToRead

/-- Settles O39: each effect that a step can have keeps the invariant. -/
theorem stepKeepsTheInvariant : Obligations.StepKeepsTheInvariant := by
  intro s t hs h
  obtain ⟨u, hu, he⟩ := step_effect h
  exact he.sound (hs.sameBlock hu)

theorem Effect.cfg_eq (h : Effect o u t) : t.cfg = u.cfg := by
  cases h <;> simp

theorem step_cfg (h : step s = .next t) : t.cfg = s.cfg := by
  obtain ⟨u, hu, he⟩ := step_effect h
  exact he.cfg_eq.trans hu.samePool.cfg

/-- What every step keeps, every run keeps. -/
theorem runSteps_keeps {P : State → Prop} (hstep : ∀ {a b}, P a → step a = .next b → P b) {k : Nat}
    (h : runSteps k s = .next t) (hs : P s) : P t := by
  induction k generalizing s with
  | zero => cases h; exact hs
  | succ k ih =>
    rw [runSteps_succ] at h
    split at h
    · rename_i u hu
      exact ih h (hstep hs hu)
    · cases h
    · cases h

theorem Sound.runSteps {k : Nat} (hs : Sound s) (h : runSteps k s = .next t) : Sound t :=
  runSteps_keeps (fun ha hab => stepKeepsTheInvariant _ _ ha hab) h hs

theorem runSteps_cfg {k : Nat} (h : runSteps k s = .next t) : t.cfg = s.cfg :=
  runSteps_keeps (P := fun a => a.cfg = s.cfg) (fun ha hab => (step_cfg hab).trans ha) h rfl

/-- Settles O40: every state of such a run is sound, and the view invariant is part of that. -/
theorem viewInvariantIsReachable : Obligations.ViewInvariantIsReachable := by
  intro c ts k s hc h
  obtain rfl : s.cfg = c := runSteps_cfg h
  have hv := ((sound_construct hc ts).runSteps h).views
  exact ⟨hv.writeSide, hv.writeBound, hv.readSide, hv.filledSeen_r_le, hv.filledCount_le⟩

/-! ### Who writes what -/

theorem Effect.w_owner (h : Effect o u t) (hne : t.w ≠ u.w) :
    o.any isPrepareTurn = true ∨ o.any isResetTurn = true := by
  cases h with
  | stored => left; simp [isPrepareTurn]
  | reset | rst => right; simp [isResetTurn]
  | _ => simp at hne

theorem Effect.r_owner (h : Effect o u t) (hne : t.r ≠ u.r) :
    o.any isUseTurn = true ∨ o.any isResetTurn = true := by
  cases h with
  | delivered => left; simp [isUseTurn]
  | reset | rst => right; simp [isResetTurn]
  | _ => simp at hne

theorem Effect.slot_owner (h : Effect o u t) {i : Nat} (hne : memRead t.slots i ≠ memRead u.slots i) :
    (o.any isPrepareTurn = true ∧ i = u.w) ∨ o = some .rst := by
  cases h with
  | stored =>
    have hi : i = u.w := by_contra fun hi => hne (memRead_memWrite_ne _ _ hi)
    exact .inl ⟨by simp [isPrepareTurn], hi⟩
  | rst => exact .inr rfl
  | _ => simp at hne

theorem Effect.rv_owner (h : Effect o u t) (hne : t.rv ≠ u.rv) :
    o.all (fun x => decide (x = .syncR2W)) = true ∨ o.any isResetTurn = true := by
  cases h with
  | readToWrite ho => left; obtain rfl | rfl := ho <;> rfl
  | reset | rst => right; simp [isResetTurn]
  | _ => simp at hne

theorem Effect.wv_owner (h : Effect o u t) (hne : t.wv ≠ u.wv) :
    o.all (fun x => decide (x = .syncW2R)) = true ∨ o.any isResetTurn = true := by
  cases h with
  | writeToRead ho => left; obtain rfl | rfl := ho <;> rfl
  | reset | rst => right; simp [isResetTurn]
  | _ => simp at hne

/-- Settles O36: the owners of what the step's effect changes, seen from the state before its turn was taken off the list. -/
theorem stateHasItsOwners : Obligations.StateHasItsOwners := by
  intro s t h
  obtain ⟨u, hu, he⟩ := step_effect h
  have hpool := hu.samePool
  rw [← hpool.w, ← hpool.r, ← hpool.rv, ← hpool.wv, ← hpool.slots]
  exact ⟨step_cfg h, he.w_owner, he.r_owner, fun _ => he.slot_owner, he.rv_owner, he.wv_owner⟩

end Sys2Proof.Machine
end

section
/-! The reference agents around the block (spec/10_state.md R30): what one move of the Producer and of the Consumer does from
each position of its program, and that it leaves the other agent where it stands. -/

namespace Sys2Proof.Machine

variable {s t : State} {y y' : System} {f : Frame}

/-! ### The agents' commands on a sound block -/

theorem Sound.checked (hs : Sound s) : Checked s := by
  refine ⟨hs.valid, ?_, hs.statuses⟩
  rw [← Bool.not_eq_false, cursorsInRange_eq_false_iff]
  have hw := hs.w_lt
  have hr := hs.r_lt
  rintro (h | h | ⟨hm, h⟩)
  · omega
  · omega
  · have := hs.views.range hm
    omega

/-- A command word that its port and operand make a command runs that command. -/
theorem runWord_commandWord (p : Port) (op : Op) (f : Frame) {i : Instr} (h : assemble s.cfg op p f = .ok i) :
    runWord p (commandWord op) f s = exec i s := by
  rw [runWord, decode_commandWord, h]

theorem runTurn_isFull : runTurn (.portW (commandWord .isFull) f) s =
    exec (.isFull .w) (noteCommand .w (commandWord .isFull) s) :=
  runWord_commandWord .w .isFull f rfl

theorem runTurn_prepare (h : s.cfg.Fits f) : runTurn (.portW (commandWord .prepare) f) s =
    exec (.prepare f) (noteCommand .w (commandWord .prepare) s) :=
  runWord_commandWord .w .prepare f (if_pos (by rwa [noteCommand_cfg]))

theorem runTurn_use : runTurn (.portR (commandWord .use)) s = exec .use (noteCommand .r (commandWord .use) s) :=
  runWord_commandWord .r .use zeroFrame rfl

/-- After an ISFULL on W the agent sees room exactly where the write side does. -/
theorem roomSeen_isFull (h : exec (.isFull .w) s = .next t) : roomSeen t = !fullSeen .w s := by
  cases h
  cases hf : fullSeen .w s <;> simp [roomSeen, DataPort.port, zext32]

theorem accepted_storeFrame : accepted (storeFrame f s) = true := by simp [accepted]

theorem accepted_overrun : accepted (raise .overrun s) = false := by simp [accepted]

/-- A PREPARE is answered, with OK exactly where the write side sees room. -/
theorem exec_prepare_answers (f : Frame) (s : State) :
    ∃ t, exec (.prepare f) s = .next t ∧ accepted t = !fullSeen .w s := by
  cases hf : fullSeen .w s with
  | true => exact ⟨_, execPrepare_full hf, accepted_overrun⟩
  | false => exact ⟨_, execPrepare_room hf, accepted_storeFrame⟩

/-- Where the read side sees a frame, slot `R` holds one (20_memory.md R82). -/
theorem Sound.exists_memRead (hs : Sound s) (h : filledSeen .r s ≠ 0) : ∃ f, memRead s.slots s.r = some f := by
  refine Option.isSome_iff_exists.mp (hs.written s.r ?_)
  rw [poolSlots_deliverFrame silence hs.w_lt hs.r_lt (hs.views.filledCount_ne_zero h)]
  exact List.mem_cons_self

/-! ### The moves of the Producer -/

theorem Sound.systemStep_eq (hs : Sound y.block) (m : Move) : systemStep m y = takeMove m y := systemStep_legal hs.valid

theorem takeFrame_none {render : Option Frame} (h : cycleFrame y.held render = none) :
    takeFrame render y = { y with producerAt := .idle } := by
  simp [takeFrame, h]

theorem takeFrame_some {render : Option Frame} (h : cycleFrame y.held render = some f) :
    takeFrame render y = { y with held := some f, producerAt := .offer } := by
  simp [takeFrame, h]

theorem cycleFrame_eq_some {held render : Option Frame} (h : held = some f ∨ (held = none ∧ render = some f)) :
    cycleFrame held render = some f := by
  obtain rfl | ⟨rfl, rfl⟩ := h <;> rfl

/-- At the head of the first program, or behind an ISFULL that answered 0, the Producer takes the frame of its cycle. -/
theorem producerMove_take {render : Option Frame}
    (h : (y.producerAt = .start ∧ y.program = .holdAndRetry) ∨ y.producerAt = .render) :
    producerMove render y = .next (takeFrame render y) := by
  obtain ⟨hat, hprog⟩ | hat := h
  · simp [producerMove, hat, startCycle, hprog]
  · simp [producerMove, hat]

theorem producerMove_checkRoom {render : Option Frame} (hat : y.producerAt = .start) (hprog : y.program = .checkFirst) :
    producerMove render y = checkRoom y := by
  simp [producerMove, hat, startCycle, hprog]

theorem producerMove_offerFrame {render : Option Frame} (hat : y.producerAt = .offer) (hheld : y.held = some f) :
    producerMove render y = offerFrame f y := by
  simp [producerMove, hat, offerHeld, hheld]

theorem beginCycle_between (h : y.producerAt = .idle ∨ y.producerAt = .backOff) :
    beginCycle y = { noteAgent .w y with producerAt := .start } := by
  obtain h | h := h <;> simp [beginCycle, h]

theorem checkRoom_sound (hs : Sound y.block) :
    ∃ t, exec (.isFull .w) (noteCommand .w (commandWord .isFull) y.block) = .next t ∧
      checkRoom y = .next { y with block := t, producerAt := if fullSeen .w y.block then .idle else .render } := by
  obtain ⟨t, ht⟩ : ∃ t, exec (.isFull .w) (noteCommand .w (commandWord .isFull) y.block) = .next t := ⟨_, rfl⟩
  have hroom := roomSeen_isFull ht
  rw [(SamePool.noteCommand .w _ y.block).fullSeen_eq] at hroom
  refine ⟨t, ht, ?_⟩
  rw [checkRoom, issue_checked hs.checked, runTurn_isFull, ht]
  cases hf : fullSeen .w y.block <;> simp [hroom, hf]

theorem offerFrame_sound (hs : Sound y.block) (hfit : y.block.cfg.Fits f) (hheld : y.held = some f) :
    ∃ t, exec (.prepare f) (noteCommand .w (commandWord .prepare) y.block) = .next t ∧
      offerFrame f y = .next (if fullSeen .w y.block then { y with block := t, producerAt := .backOff }
        else { y with block := t, held := none, producerAt := .idle }) := by
  obtain ⟨t, ht, hacc⟩ := exec_prepare_answers f (noteCommand .w (commandWord .prepare) y.block)
  rw [(SamePool.noteCommand .w _ y.block).fullSeen_eq] at hacc
  refine ⟨t, ht, ?_⟩
  rw [offerFrame, issue_checked hs.checked, runTurn_prepare hfit, ht]
  cases hf : fullSeen .w y.block <;> simp [hacc, hf, hheld]

/-- Settles O54: a clause for each position, of which the ISFULL and the PREPARE are the block's own commands. -/
theorem producerFollowsItsProgram : Obligations.ProducerFollowsItsProgram := by
  intro y render hs
  simp only [hs.systemStep_eq, takeMove]
  refine ⟨fun hat => ?_, fun hat => ?_, fun hat => ⟨fun hheld hrender => ?_, fun f hf => ?_⟩, fun hat hprog => ?_,
    fun f hat hheld hfit => ?_, fun hat => ?_⟩
  · simp [producerMove, hat]
  · rw [beginCycle_between hat]
    rfl
  · rw [producerMove_take hat, takeFrame_none (by simp [cycleFrame, hheld, hrender])]
  · rw [producerMove_take hat, takeFrame_some (cycleFrame_eq_some hf)]
  · rw [producerMove_checkRoom hat hprog]
    exact checkRoom_sound hs
  · rw [producerMove_offerFrame hat hheld]
    exact offerFrame_sound hs hfit hheld
  · simp only [producerMove, hat]

/-! ### The moves of the Consumer -/

theorem useFrame_sound {x : RResponse} {out : List RResponse} (hs : Sound y.block)
    (ht : exec .use (noteCommand .r (commandWord .use) y.block) = .next t) (hx : t.rOut = out ++ [x]) :
    useFrame y = .next { y with block := t, consumerAt := .copyOut x.frame } := by
  rw [useFrame, issue_checked hs.checked, runTurn_use, ht]
  simp [hx]

/-- Before its USE the Consumer gets SILENCE from a pool that the read side sees empty, and the frame of slot `R` from any
other. -/
theorem useFrame_answers (hs : Sound y.block) :
    ∃ t, exec .use (noteCommand .r (commandWord .use) y.block) = .next t ∧
      (filledSeen .r y.block = 0 → useFrame y = .next { y with block := t, consumerAt := .copyOut silence }) ∧
      (filledSeen .r y.block ≠ 0 → ∃ f, memRead y.block.slots y.block.r = some f ∧
        useFrame y = .next { y with block := t, consumerAt := .copyOut f }) := by
  have hseen := (SamePool.noteCommand .r (commandWord .use) y.block).filledSeen_eq .r
  by_cases he : filledSeen .r y.block = 0
  · have ht := execUse_empty (hseen.trans he)
    exact ⟨_, ht, fun _ => useFrame_sound hs ht (raise_underrun_rOut _), fun hne => absurd he hne⟩
  · obtain ⟨f, hf⟩ := hs.exists_memRead he
    have ht := execUse_frame (s := noteCommand .r (commandWord .use) y.block) (hseen.trans_ne he) (by simpa using hf)
    exact ⟨_, ht, fun h0 => absurd h0 he, fun _ => ⟨f, hf, useFrame_sound hs ht (deliverFrame_rOut _ _)⟩⟩

/-- Settles O55. -/
theorem consumerFollowsItsProgram : Obligations.ConsumerFollowsItsProgram := by
  intro y hs
  simp only [hs.systemStep_eq, takeMove]
  refine ⟨fun hat => ⟨?_, ?_⟩, fun hat => ?_, fun f hat => ?_⟩
  · simp [consumerMove, hat]
  · simp only [beginCallback, hat]
    rfl
  · simp only [consumerMove, hat]
    exact useFrame_answers hs
  · simp [consumerMove, hat]

/-! ### What a move leaves unchanged -/

theorem producerMove_leaves {render : Option Frame} (h : producerMove render y = .next y') :
    y'.program = y.program ∧ y'.device = y.device ∧ y'.consumerAt = y.consumerAt := by
  unfold producerMove at h
  split at h
  · cases h; exact ⟨rfl, rfl, rfl⟩
  · unfold startCycle at h
    split at h
    · cases h; simp
    · obtain ⟨t, -, rfl⟩ := checkRoom_cases h
      exact ⟨rfl, rfl, rfl⟩
  · cases h; simp
  · unfold offerHeld at h
    split at h
    · obtain ⟨t, -, rfl⟩ := offerFrame_cases h
      exact ⟨rfl, rfl, rfl⟩
    · cases h; exact ⟨rfl, rfl, rfl⟩
  · cases h; split <;> exact ⟨rfl, rfl, rfl⟩

theorem consumerMove_leaves (h : consumerMove y = .next y') :
    y'.program = y.program ∧ y'.held = y.held ∧ y'.producerAt = y.producerAt := by
  unfold consumerMove at h
  split at h
  · cases h; exact ⟨rfl, rfl, rfl⟩
  · obtain ⟨t, p, -, rfl⟩ := useFrame_cases h
    exact ⟨rfl, rfl, rfl⟩
  · cases h; exact ⟨rfl, rfl, rfl⟩

/-- A block that differs in who runs only, with the same turns to come. -/
theorem SameBlock.exists_running {s u : State} (h : SameBlock s u ∧ u.pending = s.pending) :
    ∃ a b, u = { s with producerRunning := a, consumerRunning := b } := by
  obtain ⟨⟨ts, a, b, rfl⟩, hp⟩ := h
  obtain rfl : ts = s.pending := hp
  exact ⟨a, b, rfl⟩

theorem takeMove_program {m : Move} (h : takeMove m y = .next y') : y'.program = y.program := by
  cases m with
  | producer render => exact (producerMove_leaves h).1
  | nextCycle => cases h; simp
  | consumer => exact (consumerMove_leaves h).1
  | callback => cases h; simp
  | stop p => cases h; simp
  | block => obtain ⟨t, -, rfl⟩ := blockMove_cases h; rfl

/-- The moves that are not the Producer's own. -/
theorem takeMove_leaves_producer {m : Move} (h : takeMove m y = .next y') (hp : ∀ render, m ≠ .producer render)
    (hc : m ≠ .nextCycle) (hs : m ≠ .stop .w) : y'.held = y.held ∧ y'.producerAt = y.producerAt := by
  cases m with
  | producer render => exact absurd rfl (hp render)
  | nextCycle => exact absurd rfl hc
  | consumer => exact (consumerMove_leaves h).2
  | callback => cases h; simp
  | stop p =>
    cases h
    cases p with
    | w => exact absurd rfl hs
    | r => simp
  | block => obtain ⟨t, -, rfl⟩ := blockMove_cases h; exact ⟨rfl, rfl⟩

/-- The moves that are not the Consumer's own. Its stop is none of its program, and leaves it where it stands as well. -/
theorem takeMove_leaves_consumer {m : Move} (h : takeMove m y = .next y') (hm : m ≠ .consumer) (hc : m ≠ .callback) :
    y'.device = y.device ∧ y'.consumerAt = y.consumerAt := by
  cases m with
  | producer render => exact (producerMove_leaves h).2
  | nextCycle => cases h; simp
  | consumer => exact absurd rfl hm
  | callback => exact absurd rfl hc
  | stop p => cases h; simp
  | block => obtain ⟨t, -, rfl⟩ := blockMove_cases h; exact ⟨rfl, rfl⟩

/-- Settles O56. -/
theorem movesLeaveTheOtherAgents : Obligations.MovesLeaveTheOtherAgents := by
  intro y y' m h
  obtain ⟨-, hm⟩ := systemStep_cases h
  refine ⟨takeMove_program hm, takeMove_leaves_producer hm, fun hc hb _ => takeMove_leaves_consumer hm hc hb, ?_, ?_⟩
  · rintro rfl
    obtain ⟨t, ht, rfl⟩ := blockMove_cases hm
    exact ht
  · rintro (rfl | rfl | ⟨p, rfl⟩) <;> cases hm
    · exact SameBlock.exists_running beginCycle_same
    · exact SameBlock.exists_running beginCallback_same
    · exact SameBlock.exists_running stopAgent_same

end Sys2Proof.Machine
end

section
/-! The memory of the block (spec/20_memory.md): where a sample stands in a frame, the pool as a first-in first-out queue, the
frames that a run carries through it, and what RESET and an inadmissible turn do. -/

namespace Sys2Proof.Machine

variable {s t u : State} {o : Option Turn} {f : Frame} {c : Config}

/-! ### The frame layout -/

/-- A sample is a window of SAMPLE_W bits on the frame (20_memory.md R74). -/
theorem testBit_sampleAt (c : Config) (f : Frame) (ch i : Nat) {j : Nat} (hj : j < c.sampleW) :
    (sampleAt c f ch i).testBit j = f.testBit ((ch * c.frameLength + i) * c.sampleW + j) := by
  rw [sampleAt, Nat.testBit_mod_two_pow, Nat.testBit_shiftRight]
  simp [hj]

theorem packSamples_cons (c : Config) (x : Nat) (xs : List Nat) :
    packSamples c (x :: xs) = x % 2 ^ c.sampleW + 2 ^ c.sampleW * packSamples c xs := by
  rw [packSamples, Nat.shiftLeft_eq, Nat.mul_comm]

theorem packSamples_cons_mod (c : Config) (x : Nat) (xs : List Nat) :
    packSamples c (x :: xs) % 2 ^ c.sampleW = x % 2 ^ c.sampleW := by
  rw [packSamples_cons, Nat.add_mul_mod_self_left, Nat.mod_mod]

/-- One sample width to the right starts the frame of the samples after the first. -/
theorem packSamples_cons_shiftRight (c : Config) (x : Nat) (xs : List Nat) :
    packSamples c (x :: xs) >>> c.sampleW = packSamples c xs := by
  have hpos := Nat.two_pow_pos c.sampleW
  rw [packSamples_cons, Nat.shiftRight_eq_div_pow, Nat.add_mul_div_left _ _ hpos,
    Nat.div_eq_of_lt (Nat.mod_lt _ hpos), Nat.zero_add]

theorem packSamples_shiftRight (c : Config) (xs : List Nat) (k : Nat) :
    packSamples c xs >>> (k * c.sampleW) = packSamples c (xs.drop k) := by
  induction k generalizing xs with
  | zero => simp
  | succ k ih =>
    cases xs with
    | nil => simp [packSamples]
    | cons x xs =>
      rw [Nat.succ_mul, Nat.add_comm, Nat.shiftRight_add, packSamples_cons_shiftRight, ih, List.drop_succ_cons]

theorem fits_packSamples {xs : List Nat} (h : xs.length = c.frameSamples) : c.Fits (packSamples c xs) := by
  show packSamples c xs >>> (c.frameSamples * c.sampleW) = 0
  rw [packSamples_shiftRight, ← h, List.drop_length, packSamples]

/-- The frame made of samples of SAMPLE_W bits holds the `k`-th of them at the `k`-th place. -/
theorem packSamples_sample {xs : List Nat} {k : Nat} (hk : k < xs.length) (hx : xs[k] < 2 ^ c.sampleW) :
    (packSamples c xs >>> (k * c.sampleW)) % 2 ^ c.sampleW = xs[k] := by
  rw [packSamples_shiftRight, List.drop_eq_getElem_cons hk, packSamples_cons_mod, Nat.mod_eq_of_lt hx]

/-- The place of a sample is among the FRAME_SAMPLES places. -/
theorem sample_place_lt {ch i : Nat} (hch : ch < c.channels) (hi : i < c.frameLength) :
    ch * c.frameLength + i < c.frameSamples :=
  calc ch * c.frameLength + i < ch * c.frameLength + c.frameLength := Nat.add_lt_add_left hi _
    _ = (ch + 1) * c.frameLength := (Nat.succ_mul _ _).symm
    _ ≤ c.frameSamples := Nat.mul_le_mul_right _ hch

/-- Every bit of a frame is a bit of one of its samples. -/
theorem exists_sample_of_bit (hv : c.Valid) {b : Nat} (hb : b < c.frameBits) :
    ∃ ch i j, ch < c.channels ∧ i < c.frameLength ∧ j < c.sampleW ∧
      (ch * c.frameLength + i) * c.sampleW + j = b := by
  obtain ⟨-, hlength, -, -, hwidth, -⟩ := hv
  have hplace : b / c.sampleW < c.channels * c.frameLength := Nat.div_lt_of_lt_mul (by rwa [Nat.mul_comm])
  refine ⟨b / c.sampleW / c.frameLength, b / c.sampleW % c.frameLength, b % c.sampleW,
    Nat.div_lt_of_lt_mul (by rwa [Nat.mul_comm]), Nat.mod_lt _ hlength, Nat.mod_lt _ hwidth, ?_⟩
  rw [Nat.div_add_mod', Nat.div_add_mod']

/-- A frame is determined by its samples. -/
theorem eq_of_sampleAt_eq {g : Frame} (hv : c.Valid) (hf : c.Fits f) (hg : c.Fits g)
    (h : ∀ ch i, ch < c.channels → i < c.frameLength → sampleAt c f ch i = sampleAt c g ch i) : f = g := by
  refine Nat.eq_of_testBit_eq fun b => ?_
  by_cases hb : b < c.frameBits
  · obtain ⟨ch, i, j, hch, hi, hj, rfl⟩ := exists_sample_of_bit hv hb
    rw [← testBit_sampleAt c f ch i hj, ← testBit_sampleAt c g ch i hj, h ch i hch hi]
  · have above {x : Frame} (hx : c.Fits x) : x.testBit b = false :=
      Nat.testBit_eq_false_of_lt ((fits_iff.mp hx).trans_le (Nat.pow_le_pow_right Nat.two_pos (Nat.le_of_not_lt hb)))
    rw [above hf, above hg]

/-- Settles O6. -/
theorem frameLayout : Obligations.FrameLayout := by
  refine fun c hv => ⟨fun f ch i j hj => testBit_sampleAt c f ch i hj, fun xs hlen hx => ⟨fits_packSamples hlen, ?_⟩,
    fun f g => eq_of_sampleAt_eq hv⟩
  intro ch i hch hi
  have hk : ch * c.frameLength + i < xs.length := hlen ▸ sample_place_lt hch hi
  rw [List.getElem?_eq_getElem hk, sampleAt, packSamples_sample hk (hx _ (List.getElem_mem hk))]

/-! ### What the lagging views guarantee -/

/-- A pool that holds a frame holds one in slot `R`. -/
theorem r_mem_poolSlots (hr : s.r < s.cfg.n) (h : filledCount s ≠ 0) : s.r ∈ poolSlots s :=
  mem_poolSlots.mpr ⟨0, Nat.pos_of_ne_zero h, Nat.mod_eq_of_lt hr⟩

/-- Settles O30: the view invariant bounds the true count by each port's count. -/
theorem laggingViewsAreConservative : Obligations.LaggingViewsAreConservative := by
  refine fun s hs => ⟨fun hroom => ?_, fun hframe => ?_⟩
  · exact ⟨hs.views.filledCount_lt hroom, w_notMem_poolSlots hs.w_lt hs.r_lt⟩
  · have hne := hs.views.filledCount_ne_zero hframe
    exact ⟨hne, r_mem_poolSlots hs.r_lt hne⟩

/-! ### The pool as a queue -/

theorem SamePool.contents_eq (h : SamePool s t) : contents t = contents s :=
  contents_congr h.poolSlots_eq fun _ _ => by rw [h.slots]

theorem contents_eq_nil (h : s.w = s.r) : contents s = [] := by
  simp [contents, poolSlots, filledCount, h]

theorem contents_resetCursors (s : State) : contents (resetCursors s) = [] := contents_eq_nil (resetCursors_w s)

/-- Every slot of the pool holds a frame (20_memory.md R82), so none is left out of the contents. -/
theorem contents_length (hs : Sound s) : (contents s).length = filledCount s := by
  rw [← poolSlots_length, contents, List.filterMap_length_eq_length]
  exact fun i hi => Option.isSome_map.trans (hs.written i hi)

/-- A store appends its frame: slot `W` is none of the slots that hold older frames. -/
theorem contents_storeFrame (hs : Sound s) (hroom : fullSeen .w s = false) (f : Frame) :
    contents (storeFrame f s) = contents s ++ [(s.w, f)] := by
  have holder : ∀ i ∈ poolSlots s, memRead (memWrite s.slots s.w f) i = memRead s.slots i := fun i hi =>
    memRead_memWrite_ne _ _ fun h => w_notMem_poolSlots hs.w_lt hs.r_lt (h ▸ hi)
  rw [contents, poolSlots_storeFrame f hs.w_lt hs.r_lt (hs.views.filledCount_lt hroom), List.filterMap_append,
    storeFrame_slots]
  congr 1
  · exact List.filterMap_congr fun i hi => by rw [holder i hi]
  · simp

/-- A delivery takes the head, which is the frame in slot `R`. -/
theorem contents_deliverFrame (hs : Sound s) (hframe : filledSeen .r s ≠ 0) (hf : memRead s.slots s.r = some f) :
    contents s = (s.r, f) :: contents (deliverFrame f s) := by
  rw [contents, poolSlots_deliverFrame f hs.w_lt hs.r_lt (hs.views.filledCount_ne_zero hframe)]
  simp [contents, hf]

/-- The commands other than PREPARE, USE and RESET leave the pool as it is. -/
theorem exec_samePool {i : Instr} (hprepare : ∀ f, i ≠ .prepare f) (huse : i ≠ .use) (hreset : i ≠ .reset)
    (h : exec i s = .next t) : SamePool s t := by
  cases i with
  | prepare f => exact absurd rfl (hprepare f)
  | use => exact absurd rfl huse
  | reset => exact absurd rfl hreset
  | _ => cases h; exact .respond ..

/-- Settles O43: each command does to the contents what it does to the queue. -/
theorem theBlockIsABoundedQueue : Obligations.TheBlockIsABoundedQueue := by
  refine fun s hs => ⟨contents_length hs, fun f t h => ?_, fun t h => ?_, fun t h => ?_, fun i t hp hu hr h =>
    (exec_samePool hp hu hr h).contents_eq⟩
  · obtain ⟨hfull, rfl⟩ | ⟨hroom, rfl⟩ := execPrepare_cases h
    · rw [if_pos hfull, contents_raise]
    · rw [if_neg (by simp [hroom]), contents_storeFrame hs hroom]
  · obtain ⟨hempty, rfl⟩ | ⟨hframe, f, hf, rfl⟩ := execUse_cases h
    · exact ⟨fun _ => contents_raise .underrun, fun hne => absurd hempty hne⟩
    · exact ⟨fun h0 => absurd h0 hframe, fun _ => ⟨f, contents_deliverFrame hs hframe hf, deliverFrame_rOut s f⟩⟩
  · obtain ⟨-, rfl⟩ := execReset_cases h
    rw [contents_respond, contents_resetCursors]

/-! ### What a step stores and delivers -/

theorem storedBy_of_not_prepare (h : s.pending.head?.any isPrepareTurn = false) : storedBy s t = [] := by
  unfold storedBy
  split
  · rename_i hp _
    rw [hp] at h
    exact if_neg fun hx => by simp [isPrepareTurn, hx.1] at h
  · rfl

theorem deliveredBy_of_not_use (h : s.pending.head?.any isUseTurn = false) : deliveredBy s t = [] := by
  unfold deliveredBy
  split
  · rename_i hp _
    rw [hp] at h
    exact if_neg fun hx => by simp [isUseTurn, hx.1] at h
  · rfl

theorem storedBy_prepare {x : WResponse} {out : List WResponse}
    (hp : s.pending.head? = some (.portW (commandWord .prepare) f)) (hx : t.wOut = out ++ [x]) :
    storedBy s t = if x.status = .ok then [(x.slot, f)] else [] := by
  simp [storedBy, hp, hx]

theorem deliveredBy_use {x : RResponse} {out : List RResponse}
    (hp : s.pending.head? = some (.portR (commandWord .use))) (hx : t.rOut = out ++ [x]) :
    deliveredBy s t = if x.status = .ok then [(x.slot, x.frame)] else [] := by
  simp [deliveredBy, hp, hx]

/-! ### The frames that a run carries through the pool -/

/-- From `s` to `t` the pool took in the frames of `stored`, into consecutive slots from `W` on, and gave out those of
`delivered`, in order and without loss. -/
structure Carries (s t : State) (stored delivered : List (Nat × Frame)) : Prop where
  cfg : t.cfg = s.cfg
  queue : contents s ++ stored = delivered ++ contents t
  slots : ∀ (j : Nat) (x : Nat × Frame), stored[j]? = some x → x.1 = (s.w + j) % s.cfg.n
  cursor : t.w = (s.w + stored.length) % s.cfg.n

/-- What leaves the contents and `W` as they are carries nothing. -/
theorem Carries.nothing (hw : s.w < s.cfg.n) (hcfg : t.cfg = s.cfg) (hwt : t.w = s.w) (h : contents t = contents s) :
    Carries s t [] [] where
  cfg := hcfg
  queue := by simp [h]
  slots := by simp
  cursor := by rw [hwt, List.length_nil, Nat.add_zero, Nat.mod_eq_of_lt hw]

theorem SamePool.carries (h : SamePool s t) (hw : s.w < s.cfg.n) : Carries s t [] [] :=
  .nothing hw h.cfg h.w h.contents_eq

theorem carries_storeFrame (hs : Sound s) (hroom : fullSeen .w s = false) (f : Frame) :
    Carries s (storeFrame f s) [(s.w, f)] [] where
  cfg := rfl
  queue := (contents_storeFrame hs hroom f).symm
  slots := fun j x hx => by
    obtain ⟨rfl, rfl⟩ : j = 0 ∧ (s.w, f) = x := by simpa [List.getElem?_singleton] using hx
    exact (Nat.mod_eq_of_lt hs.w_lt).symm
  cursor := incN_eq_mod hs.w_lt

theorem carries_deliverFrame (hs : Sound s) (hframe : filledSeen .r s ≠ 0) (hf : memRead s.slots s.r = some f) :
    Carries s (deliverFrame f s) [] [(s.r, f)] where
  cfg := rfl
  queue := by rw [List.append_nil, contents_deliverFrame hs hframe hf]; rfl
  slots := by simp
  cursor := (Nat.mod_eq_of_lt hs.w_lt).symm

/-- What two stretches of a run carry, the whole carries. -/
theorem Carries.trans {a b a' b' : List (Nat × Frame)} (h : Carries s t a b) (h' : Carries t u a' b') :
    Carries s u (a ++ a') (b ++ b') where
  cfg := h'.cfg.trans h.cfg
  queue := by rw [← List.append_assoc, h.queue, List.append_assoc, h'.queue, List.append_assoc]
  slots := fun j x hx => by
    by_cases hj : j < a.length
    · exact h.slots j x (by rwa [List.getElem?_append_left hj] at hx)
    · rw [List.getElem?_append_right (Nat.le_of_not_lt hj)] at hx
      rw [h'.slots _ x hx, h.cursor, h.cfg, Nat.mod_add_mod, Nat.add_assoc, Nat.add_sub_cancel' (Nat.le_of_not_lt hj)]
  cursor := by rw [h'.cursor, h.cursor, h.cfg, Nat.mod_add_mod, Nat.add_assoc, List.length_append]

/-- A pool that was empty has given out only what it took in, in the same order (20_memory.md R82). -/
theorem Carries.delivered_getElem? {a b : List (Nat × Frame)} (h : Carries s t a b) (hempty : contents s = [])
    {j : Nat} {x : Nat × Frame} (hx : b[j]? = some x) : a[j]? = some x := by
  obtain ⟨hj, -⟩ := List.getElem?_eq_some_iff.mp hx
  rw [show a = b ++ contents t by simpa [hempty] using h.queue, List.getElem?_append_left hj, hx]

/-- A step without a reset carries what it stores and delivers: an effect stores by a PREPARE with room, delivers by a USE that
sees a frame, and otherwise leaves the contents. -/
theorem Effect.carries (h : Effect o u t) (ho : s.pending.head? = o) (hr : o.any isResetTurn = false) (hu : Sound u) :
    Carries u t (storedBy s t) (deliveredBy s t) := by
  have nothing (hp : o.any isPrepareTurn = false) (hd : o.any isUseTurn = false) (hcarries : Carries u t [] []) :
      Carries u t (storedBy s t) (deliveredBy s t) := by
    rwa [storedBy_of_not_prepare (by rwa [ho]), deliveredBy_of_not_use (by rwa [ho])]
  cases h with
  | nothing h =>
    refine nothing ?_ ?_ (.nothing hu.w_lt rfl rfl rfl)
    all_goals obtain rfl | ⟨d, on, rfl⟩ := h <;> rfl
  | answered p st v hst hp hd => exact nothing hp hd ((SamePool.respond ..).carries hu.w_lt)
  | overrun =>
    rw [storedBy_prepare ho (raise_overrun_wOut u), deliveredBy_of_not_use (by simp [ho, isUseTurn])]
    exact (SamePool.raise .overrun u).carries hu.w_lt
  | stored f hroom =>
    rw [storedBy_prepare ho (storeFrame_wOut u f), deliveredBy_of_not_use (by simp [ho, isUseTurn])]
    exact carries_storeFrame hu hroom f
  | underrun =>
    rw [storedBy_of_not_prepare (by simp [ho, isPrepareTurn]), deliveredBy_use ho (raise_underrun_rOut u)]
    exact (SamePool.raise .underrun u).carries hu.w_lt
  | delivered f hframe hf =>
    rw [storedBy_of_not_prepare (by simp [ho, isPrepareTurn]), deliveredBy_use ho (deliverFrame_rOut u f)]
    exact carries_deliverFrame hu hframe hf
  | reset | rst => simp [isResetTurn] at hr
  | readToWrite h | writeToRead h =>
    refine nothing ?_ ?_ (.nothing hu.w_lt rfl rfl rfl)
    all_goals obtain rfl | rfl := h <;> rfl

theorem Sound.step_carries (hs : Sound s) (h : step s = .next t) (hr : s.pending.head?.any isResetTurn = false) :
    Carries s t (storedBy s t) (deliveredBy s t) := by
  obtain ⟨u, hu, he⟩ := step_effect h
  exact (hu.samePool.carries hs.w_lt).trans (he.carries rfl hr (hs.sameBlock hu))

/-- A run of one step more is a step that takes no reset, and then a run from where it led. -/
theorem journal_succ_cases {k : Nat} {stored delivered : List (Nat × Frame)}
    (h : journal (k + 1) s = some (u, stored, delivered)) :
    ∃ t a b, step s = .next t ∧ s.pending.head?.any isResetTurn = false ∧ journal k t = some (u, a, b) ∧
      stored = storedBy s t ++ a ∧ delivered = deliveredBy s t ++ b := by
  rw [journal] at h
  split at h
  · rename_i t ht
    split at h
    · cases h
    · rename_i hr
      split at h
      · rename_i v a b hj
        cases h
        exact ⟨t, a, b, ht, by simpa using hr, hj, rfl, rfl⟩
      · cases h
  · cases h
  · cases h

theorem Sound.journal_carries {k : Nat} {stored delivered : List (Nat × Frame)} (hs : Sound s)
    (h : journal k s = some (u, stored, delivered)) : Carries s u stored delivered := by
  induction k generalizing s stored delivered with
  | zero => cases h; exact .nothing hs.w_lt rfl rfl rfl
  | succ k ih =>
    obtain ⟨t, a, b, ht, hr, hj, rfl, rfl⟩ := journal_succ_cases h
    exact (hs.step_carries ht hr).trans (ih (stepKeepsTheInvariant s t hs ht) hj)

/-- Either reset leaves equal cursors (40_control.md R141, 70_reset_and_hazards.md R270). -/
theorem Effect.cursors_eq_of_reset (h : Effect o u t) (hr : o.any isResetTurn = true) : t.w = t.r := by
  cases h with
  | reset => simpa using resetCursors_w u
  | rst => rfl
  | nothing h => obtain rfl | ⟨d, on, rfl⟩ := h <;> cases hr
  | answered p st v hst hp hd hn => exact absurd hr (by simp [hn])
  | readToWrite h | writeToRead h => obtain rfl | rfl := h <;> cases hr
  | _ => cases hr

/-- Settles O44, by induction on the number of steps (`Sound.journal_carries`). -/
theorem framesAreDeliveredInOrder : Obligations.FramesAreDeliveredInOrder := by
  refine ⟨fun k s u stored delivered hs h => ?_, fun s t _ h hr => ?_⟩
  · have hc := hs.journal_carries h
    exact ⟨hc.queue, hc.slots, fun hempty _ _ => hc.delivered_getElem? hempty⟩
  · obtain ⟨u, -, he⟩ := step_effect h
    have hwr := he.cursors_eq_of_reset hr
    exact ⟨contents_eq_nil hwr, hwr⟩

/-! ### Inadmissible turns and a second RESET -/

/-- A PREPARE word whose operand has another width is no command (20_memory.md R73). -/
theorem runTurn_prepare_unfit (h : ¬ s.cfg.Fits f) :
    runTurn (.portW (commandWord .prepare) f) s = .refused .notACommand := by
  simp [runTurn, runWord, decode_commandWord, assemble, h]

theorem execReset_running (hm : s.cfg.syncMode = .lagging) (h : agentsRunning s = true) :
    execReset s = .fault .resetWhileRunning :=
  if_pos ⟨hm, h⟩

theorem runTurn_reset : runTurn (.portC (commandWord .reset)) s = exec .reset s :=
  runWord_commandWord .c .reset zeroFrame rfl

theorem admissible_portW_false {cmd : Byte} :
    admissible s (.portW cmd f) = false ↔ cmd = commandWord .prepare ∧ ¬ s.cfg.Fits f := by
  simp [admissible]

theorem admissible_portC_false {cmd : Byte} : admissible s (.portC cmd) = false ↔
    cmd = commandWord .reset ∧ s.cfg.syncMode = .lagging ∧ agentsRunning s = true := by
  simp [admissible]

theorem syncMode_shared_of_ne_lagging (h : s.cfg.syncMode ≠ .lagging) : s.cfg.syncMode = .shared := by
  cases hm : s.cfg.syncMode
  · rfl
  · exact absurd hm h

/-- Settles O42: a sound block passes the checks of a step, so the turn itself is what stops it. -/
theorem inadmissibleTurnsStopByName : Obligations.InadmissibleTurnsStopByName := by
  intro s turn rest hs hp ha
  rw [step_of_pending hs.checked hp]
  cases turn with
  | portW cmd f =>
    obtain ⟨rfl, hfit⟩ := admissible_portW_false.mp ha
    exact .inl ⟨rfl, runTurn_prepare_unfit hfit⟩
  | portC cmd =>
    obtain ⟨rfl, hm, hrun⟩ := admissible_portC_false.mp ha
    exact .inr (.inr ⟨rfl, runTurn_reset.trans (execReset_running hm hrun)⟩)
  | syncR2W | syncW2R =>
    have hm := syncMode_shared_of_ne_lagging (of_decide_eq_false ha)
    exact .inr (.inl ⟨by simp, runSync_shared hm⟩)
  | portR | rst | running => cases ha

@[simp] theorem agentsRunning_respond (p : Port) (st : Status) (slot : Nat) (v : Value) :
    agentsRunning (respond p st slot v f s) = agentsRunning s := by
  simp [agentsRunning]

@[simp] theorem agentsRunning_resetCursors (s : State) : agentsRunning (resetCursors s) = agentsRunning s := by
  simp [agentsRunning]

/-- Where the cursors are as RESET leaves them and each view is at its cursor, RESET moves nothing. -/
theorem resetCursors_eq_self (hw : s.w = s.r) (hzero : s.cfg.resetCursorMode = .zero → s.r = 0)
    (hviews : s.cfg.syncMode = .lagging → s.rv = s.r ∧ s.wv = s.w) : resetCursors s = s := by
  have hcursors : alignCursors s = s := by
    unfold alignCursors
    cases hm : s.cfg.resetCursorMode with
    | align => exact congrArg (fun w => { s with w := w }) hw.symm
    | zero =>
      have hr := hzero hm
      exact congrArg₂ (fun w r => { s with w := w, r := r }) (hw.trans hr).symm hr.symm
  rw [resetCursors, hcursors, alignViews]
  cases hm : s.cfg.syncMode with
  | shared => rfl
  | lagging =>
    obtain ⟨hrv, hwv⟩ := hviews hm
    exact congrArg₂ (fun rv wv => { s with rv := rv, wv := wv }) hrv.symm hwv.symm

theorem resetCursors_respond_resetCursors (p : Port) (st : Status) (slot : Nat) (v : Value) (f : Frame) (s : State) :
    resetCursors (respond p st slot v f (resetCursors s)) = respond p st slot v f (resetCursors s) := by
  apply resetCursors_eq_self
  · simpa using resetCursors_w s
  · intro hm
    rw [respond_cfg, resetCursors_cfg] at hm
    rw [respond_r, resetCursors_r, hm]
  · intro hm
    simpa using resetCursors_views s (by simpa using hm)

/-- Settles O19: a RESET that answers leaves who runs as it is, so a second one answers too, and it finds the cursors and views
where it would put them. -/
theorem resetIsIdempotent : Obligations.ResetIsIdempotent := by
  intro s t h
  obtain ⟨hquiet, rfl⟩ := execReset_cases h
  refine (execReset_quiet (by simpa using hquiet)).trans ?_
  rw [resetCursors_respond_resetCursors]
  rfl

end Sys2Proof.Machine
end

section
/-! The encoding (spec/30_encoding.md): the decoder and the encoder, the words that no port takes, the step that a transaction
makes, and the textual transcriber. -/

namespace Sys2Proof.Machine

variable {s : State} {c : Config} {p : Port} {d : DataPort} {op : Op} {cmd : Byte} {f : Frame} {i : Instr} {e : Reject}

/-! ### The decoder and the encoder -/

/-- PREPARE is the only command with an operand that can be illegal (20_memory.md R73). -/
theorem wellFormed_iff : i.wellFormed c = true ↔ ∀ g, i = .prepare g → c.Fits g := by
  cases i <;> simp [Instr.wellFormed]

/-- The operation and the port of a command, with its operand on `w_frame`, make that command again. -/
theorem assemble_opOf (hfit : i.wellFormed c = true) (hf : ∀ g, i = .prepare g → g = f) :
    assemble c (opOf i) i.port f = .ok i := by
  cases i with
  | prepare g =>
    obtain rfl := hf g rfl
    exact if_pos (wellFormed_iff.mp hfit g rfl)
  | filled d | isFull d => cases d <;> rfl
  | nop | use | reset | rdUnderruns | rdOverruns => rfl

/-- A word is a command exactly where it stands on the command's port, is its word and has its operand, if it takes one. -/
theorem decode_eq_ok_iff : decode c p cmd f = .ok i ↔
    i.wellFormed c = true ∧ (encode i).port = p ∧ (encode i).cmd = cmd ∧ ∀ g, i = .prepare g → g = f := by
  constructor
  · intro h
    obtain ⟨hcmd, hport, hoperand⟩ := decode_ok h
    refine ⟨wellFormed_iff.mpr fun g hg => ?_, hport.symm, hcmd.symm, fun g hg => (hoperand g hg).1⟩
    obtain ⟨rfl, hfit⟩ := hoperand g hg
    exact hfit
  · rintro ⟨hfit, rfl, rfl, hf⟩
    exact (decode_commandWord c i.port (opOf i) f).trans (assemble_opOf hfit hf)

theorem decode_encode (hfit : i.wellFormed c = true) :
    decode c (encode i).port (encode i).cmd (encode i).frame = .ok i :=
  decode_eq_ok_iff.mpr ⟨hfit, rfl, rfl, fun _ hg => by rw [hg]; rfl⟩

/-- Settles O3: both ways are `decode_eq_ok_iff`. -/
theorem decodeAndEncodeAgree : Obligations.DecodeAndEncodeAgree :=
  ⟨fun _ _ => decode_encode, fun _ _ _ _ _ => decode_eq_ok_iff.mp⟩

/-! ### The words that no port takes -/

theorem rsvField_toNat (cmd : Byte) : (rsvField cmd).toNat = cmd.toNat / 16 := by
  have := cmd.isLt
  simp only [rsvField, BitVec.extractLsb'_toNat, Nat.shiftRight_eq_div_pow]
  omega

theorem opField_toNat (cmd : Byte) : (opField cmd).toNat = cmd.toNat % 16 := by
  simp [opField, BitVec.extractLsb'_toNat]

theorem opOfBits_eq_none_iff : ∀ b : BitVec 4,
    opOfBits b = none ↔ b.toNat ∈ [0x5, 0x6, 0x7, 0xB, 0xC, 0xD, 0xE, 0xF] := by decide

/-- The three clauses of 30_encoding.md R105 in the decoder's own terms. -/
theorem illegalWord_iff : illegalWord p cmd = true ↔
    rsvField cmd ≠ 0 ∨ opOfBits (opField cmd) = none ∨ p ∉ legalPorts (opField cmd).toNat := by
  have hrsv : rsvField cmd ≠ 0 ↔ cmd.toNat / 16 ≠ 0 := by
    rw [← rsvField_toNat, ne_eq, ← BitVec.toNat_inj]
    rfl
  simp only [illegalWord, hrsv, opOfBits_eq_none_iff, opField_toNat, Bool.or_eq_true, decide_eq_true_eq, or_assoc]

/-- A command word is illegal by clause (c) alone. -/
theorem illegalWord_commandWord : illegalWord p (commandWord op) = true ↔ p ∉ legalPorts (opBits op).toNat := by
  simp [illegalWord_iff]

theorem decode_reservedField (h : rsvField cmd ≠ 0) : decode c p cmd f = .error .reservedField := if_neg h

theorem decode_reservedOp (h : rsvField cmd = 0) (ho : opOfBits (opField cmd) = none) :
    decode c p cmd f = .error .reservedOp := by
  rw [decode, if_pos h, ho]

/-- The two ways in which an operation is no command: its port is not one that R102 lists, or its frame has another width
(20_memory.md R73). -/
theorem assemble_eq_error_iff : assemble c op p f = .error e ↔
    (e = .wrongPort ∧ p ∉ legalPorts (opBits op).toNat) ∨
      (e = .frameWidth ∧ op = .prepare ∧ p = .w ∧ ¬ c.Fits f) := by
  cases op <;> cases p
  case prepare.w => by_cases hfit : c.Fits f <;> simp [assemble, legalPorts, opBits, hfit, eq_comm]
  all_goals simp [assemble, legalPorts, opBits, eq_comm]

/-- The decoder refuses a word by a clause of R105 exactly where the word is illegal, whatever stands on `w_frame`. -/
theorem illegalWord_iff_decode (c : Config) (f : Frame) :
    illegalWord p cmd = true ↔ ∃ e, e ≠ .frameWidth ∧ decode c p cmd f = .error e := by
  by_cases hrsv : rsvField cmd = 0
  · cases hop : opOfBits (opField cmd) with
    | none => exact iff_of_true (illegalWord_iff.mpr (.inr (.inl hop))) ⟨_, by decide, decode_reservedOp hrsv hop⟩
    | some op =>
      obtain rfl := commandWord_of_fields hrsv (opBits_of_opOfBits _ _ hop)
      rw [illegalWord_commandWord, decode_commandWord]
      constructor
      · exact fun hport => ⟨.wrongPort, by decide, assemble_eq_error_iff.mpr (.inl ⟨rfl, hport⟩)⟩
      · rintro ⟨e, hne, he⟩
        obtain ⟨-, hport⟩ | ⟨hwidth, -⟩ := assemble_eq_error_iff.mp he
        · exact hport
        · exact absurd hwidth hne
  · exact iff_of_true (illegalWord_iff.mpr (.inl hrsv)) ⟨_, by decide, decode_reservedField hrsv⟩

theorem decode_eq_frameWidth_iff : decode c p cmd f = .error .frameWidth ↔ p = .w ∧ cmd = 0x01 ∧ ¬ c.Fits f := by
  constructor
  · exact decode_frameWidth
  · rintro ⟨rfl, rfl, hfit⟩
    exact (decode_commandWord c .w .prepare f).trans (if_neg hfit)

theorem exists_decode_iff : (∃ i, decode c p cmd f = .ok i) ↔
    illegalWord p cmd = false ∧ (p = .w → cmd = 0x01 → c.Fits f) := by
  have hwidth : (p = .w → cmd = 0x01 → c.Fits f) ↔ decode c p cmd f ≠ .error .frameWidth := by
    rw [ne_eq, decode_eq_frameWidth_iff]
    tauto
  rw [hwidth, ← Bool.not_eq_true, illegalWord_iff_decode c f]
  cases decode c p cmd f with
  | ok i => simp
  | error e => simp

/-- Settles O4. -/
theorem decodingIsTotal : Obligations.DecodingIsTotal :=
  fun c _ _ f => ⟨illegalWord_iff_decode c f, decode_eq_frameWidth_iff, exists_decode_iff⟩

/-! ### The words of the opcode table -/

/-- A command stands in the opcode table where its port is the table's for its word and its operand is zeros. -/
theorem decodeTableWord_encode (hfit : i.wellFormed Config.default = true) (hf : (encode i).frame = zeroFrame)
    (hport : tablePort (encode i).cmd = (encode i).port) : decodeTableWord 8 (encode i).cmd.toNat = some i := by
  have hw := (encode i).cmd.isLt
  rw [decodeTableWord, if_pos ⟨rfl, hw⟩, BitVec.ofNat_toNat, BitVec.setWidth_eq, hport, ← hf, decode_encode hfit]
  rfl

theorem decodeTableWord_of_illegal (h : ∀ p, illegalWord p cmd = true) : decodeTableWord 8 cmd.toNat = none := by
  obtain ⟨e, -, he⟩ := (illegalWord_iff_decode Config.default zeroFrame).mp (h (tablePort cmd))
  rw [decodeTableWord, if_pos ⟨rfl, cmd.isLt⟩, BitVec.ofNat_toNat, BitVec.setWidth_eq, he]
  rfl

/-- Settles O5. -/
theorem tableWordsDecode : Obligations.TableWordsDecode :=
  ⟨decodeTableWord_encode (i := .nop .w) rfl rfl rfl, decodeTableWord_encode (i := .prepare 0) rfl rfl rfl,
    decodeTableWord_encode (i := .filled .w) rfl rfl rfl, decodeTableWord_encode (i := .isFull .w) rfl rfl rfl,
    decodeTableWord_encode (i := .use) rfl rfl rfl, decodeTableWord_encode (i := .reset) rfl rfl rfl,
    decodeTableWord_encode (i := .rdUnderruns) rfl rfl rfl, decodeTableWord_encode (i := .rdOverruns) rfl rfl rfl,
    decodeTableWord_of_illegal (cmd := 0x05) fun _ => illegalWord_iff.mpr (.inr (.inl rfl)),
    decodeTableWord_of_illegal (cmd := 0x0B) fun _ => illegalWord_iff.mpr (.inr (.inl rfl)),
    decodeTableWord_of_illegal (cmd := 0x81) fun _ => illegalWord_iff.mpr (.inl (by decide))⟩

/-! ### The step that a transaction makes -/

theorem runWord_of_decode (h : decode s.cfg p cmd f = .ok i) : runWord p cmd f s = exec i s := by
  rw [runWord, h]

theorem runWord_of_illegal (h : illegalWord p cmd = true) : runWord p cmd f s = .next (raise (.illegal p) s) := by
  obtain ⟨e, hne, he⟩ := (illegalWord_iff_decode s.cfg f).mp h
  rw [runWord, he]
  cases e with
  | frameWidth => exact absurd rfl hne
  | reservedField | reservedOp | wrongPort => rfl

/-- Settles O7: the note of the agent leaves the configuration, so the word decodes as before it. -/
theorem stepRunsTheDecodedCommand : Obligations.StepRunsTheDecodedCommand := by
  refine fun s rest cmd f i hc => ⟨fun hp hd => ?_, fun hp hd => ?_, fun hp hd => ?_⟩
  · exact (step_of_pending hc hp).trans (runWord_of_decode (by rwa [noteCommand_cfg]))
  · exact (step_of_pending hc hp).trans (runWord_of_decode (by rwa [noteCommand_cfg]))
  · exact (step_of_pending hc hp).trans (runWord_of_decode hd)

/-- An ILLEGAL word on a data port notes no agent, so only the condition is raised. -/
theorem runWord_noteCommand_of_illegal (h : illegalWord d.port cmd = true) :
    runWord d.port cmd f (noteCommand d cmd s) = .next (raise (.illegal d.port) s) := by
  rw [noteCommand_of_illegal h, runWord_of_illegal h]

/-- Settles O9. -/
theorem illegalWordsChangeNothing : Obligations.IllegalWordsChangeNothing := by
  refine fun s rest cmd f hc => ⟨fun hill hp => ?_, fun hill hp => ?_, fun hill hp => ?_⟩
  · exact (step_of_pending hc hp).trans (runWord_noteCommand_of_illegal (d := .w) hill)
  · exact (step_of_pending hc hp).trans (runWord_noteCommand_of_illegal (d := .r) hill)
  · exact (step_of_pending hc hp).trans (runWord_of_illegal hill)

/-! ### Lines of text -/

variable {symbol : Nat → Frame} {line port mnemonic x : List Char} {operands : List (List Char)} {err : LineError}

theorem transcribeLine_eq_commandLine (h : tokens (withoutComment line) [] = port :: [':'] :: mnemonic :: operands) :
    transcribeLine c symbol line = commandLine c symbol port mnemonic operands := by
  rw [transcribeLine, h]
  rfl

/-- A line whose port, mnemonic and operand all have a meaning is the mnemonic's word on that port, legal there or not
(30_encoding.md R106). -/
theorem transcribeLine_eq_ok (h : tokens (withoutComment line) [] = port :: [':'] :: mnemonic :: operands)
    (hp : portNamed port = some p) (hop : mnemonicNamed mnemonic = some op)
    (hf : lineOperand c symbol op operands = .ok f) :
    transcribeLine c symbol line = .ok (turnOf ⟨p, commandWord op, f⟩) := by
  simp [transcribeLine_eq_commandLine h, commandLine, hp, hop, hf]

theorem transcribeLine_operand_error (h : tokens (withoutComment line) [] = port :: [':'] :: mnemonic :: operands)
    (hp : portNamed port = some p) (hop : mnemonicNamed mnemonic = some op)
    (hf : lineOperand c symbol op operands = .error err) : transcribeLine c symbol line = .error err := by
  simp [transcribeLine_eq_commandLine h, commandLine, hp, hop, hf]

theorem transcribeLine_unknownMnemonic (h : tokens (withoutComment line) [] = port :: [':'] :: mnemonic :: operands)
    (hp : portNamed port = some p) (hop : mnemonicNamed mnemonic = none) :
    transcribeLine c symbol line = .error .unknownMnemonic := by
  simp [transcribeLine_eq_commandLine h, commandLine, hp, hop]

theorem transcribeLine_unknownPort (h : tokens (withoutComment line) [] = port :: [':'] :: mnemonic :: operands)
    (hp : portNamed port = none) : transcribeLine c symbol line = .error .unknownPort := by
  simp [transcribeLine_eq_commandLine h, commandLine, hp]

theorem lineOperand_frame (hx : frameNamed symbol x = some f) (hfit : c.Fits f) :
    lineOperand c symbol .prepare [x] = .ok f := by
  simp [lineOperand, hx, hfit]

theorem fits_of_lt_byte (h : 8 ≤ c.frameBits) (hf : f < 2 ^ 8) : c.Fits f :=
  fits_iff.mpr (hf.trans_le (Nat.pow_le_pow_right Nat.two_pos h))

/-- Settles O52: each line by the meaning of its parts, or by the first part that has none. -/
theorem linesAreTranscribed : Obligations.LinesAreTranscribed := by
  intro c symbol hsymbol hbits
  have hliteral : c.Fits 0xA1 := fits_of_lt_byte hbits (by decide)
  exact ⟨transcribeLine_eq_ok (p := .w) (op := .nop) rfl rfl rfl rfl,
    transcribeLine_eq_ok (p := .r) (op := .use) rfl rfl rfl rfl,
    transcribeLine_eq_ok (p := .w) (op := .use) rfl rfl rfl rfl,
    transcribeLine_eq_ok (p := .c) (op := .reset) rfl rfl rfl rfl,
    transcribeLine_eq_ok (p := .w) (op := .prepare) rfl rfl rfl (lineOperand_frame rfl hsymbol),
    transcribeLine_eq_ok (p := .w) (op := .prepare) rfl rfl rfl (lineOperand_frame rfl hliteral),
    transcribeLine_operand_error (op := .prepare) rfl rfl rfl rfl,
    transcribeLine_operand_error (op := .use) rfl rfl rfl rfl,
    transcribeLine_unknownMnemonic rfl rfl rfl, transcribeLine_unknownPort rfl rfl⟩

end Sys2Proof.Machine
end

section
/-! The control commands (spec/40_control.md): NOP, and what a RESET that answers does to the cursors and views and what every
port sees after it. -/

namespace Sys2Proof.Machine

variable {s : State}

/-! ### NOP -/

/-- Settles O15: NOP takes no operand, so its word decodes with any frame on `w_frame`. -/
theorem nopOnlyResponds : Obligations.NopOnlyResponds := by
  intro s
  have hword : commandWord .nop = 0x00 := by decide
  have hdecode (p : Port) (f : Frame) : decode s.cfg p 0x00 f = .ok (.nop p) :=
    decode_eq_ok_iff.mpr ⟨rfl, rfl, hword, fun _ hg => nomatch hg⟩
  exact ⟨rfl, rfl, rfl, hdecode⟩

/-! ### The effect of RESET by mode -/

theorem alignCursors_align (h : s.cfg.resetCursorMode = .align) : alignCursors s = { s with w := s.r } := by
  rw [alignCursors, h]

theorem alignCursors_zero (h : s.cfg.resetCursorMode = .zero) : alignCursors s = { s with w := 0, r := 0 } := by
  rw [alignCursors, h]

theorem alignViews_shared (h : s.cfg.syncMode = .shared) : alignViews s = s := by rw [alignViews, h]

theorem alignViews_lagging (h : s.cfg.syncMode = .lagging) : alignViews s = { s with rv := s.r, wv := s.w } := by
  rw [alignViews, h]

/-- Under SYNC_MODE = 0 there are no views, and RESET moves the cursors only. -/
theorem resetCursors_shared (h : s.cfg.syncMode = .shared) : resetCursors s = alignCursors s :=
  alignViews_shared (by rwa [alignCursors_cfg])

/-- Under SYNC_MODE = 1 RESET moves the cursors and then each view to its cursor. -/
theorem resetCursors_lagging (h : s.cfg.syncMode = .lagging) :
    resetCursors s = { alignCursors s with rv := (alignCursors s).r, wv := (alignCursors s).w } :=
  alignViews_lagging (by rwa [alignCursors_cfg])

theorem agentsRunning_eq_false_iff :
    agentsRunning s = false ↔ s.producerRunning = false ∧ s.consumerRunning = false :=
  Bool.or_eq_false_iff

/-- RESET answers wherever 70_reset_and_hazards.md R281 defines it. -/
theorem exec_reset_of_stopped
    (h : s.cfg.syncMode = .lagging → s.producerRunning = false ∧ s.consumerRunning = false) :
    exec .reset s = .next (respond .c .ok 0 0 zeroFrame (resetCursors s)) :=
  execReset_quiet fun hm => agentsRunning_eq_false_iff.mpr (h hm)

theorem exec_reset_shared (h : s.cfg.syncMode = .shared) :
    exec .reset s = .next (respond .c .ok 0 0 zeroFrame (alignCursors s)) := by
  rw [exec_reset_of_stopped (by simp [h]), resetCursors_shared h]

theorem exec_reset_lagging (h : s.cfg.syncMode = .lagging) (hp : s.producerRunning = false)
    (hc : s.consumerRunning = false) :
    exec .reset s = .next (respond .c .ok 0 0 zeroFrame
      { alignCursors s with rv := (alignCursors s).r, wv := (alignCursors s).w }) := by
  rw [exec_reset_of_stopped fun _ => ⟨hp, hc⟩, resetCursors_lagging h]

/-- Settles O16: the mode of the views and the mode of the cursors are read one after the other. -/
theorem resetSetsTheCursorsEqual : Obligations.ResetSetsTheCursorsEqual := by
  refine fun s => ⟨fun hm ha => ?_, fun hm hz => ?_, fun hm hp hc ha => ?_, fun hm hp hc hz => ?_⟩
  · rw [exec_reset_shared hm, alignCursors_align ha]
    rfl
  · rw [exec_reset_shared hm, alignCursors_zero hz]
    rfl
  · rw [exec_reset_lagging hm hp hc, alignCursors_align ha]
    rfl
  · rw [exec_reset_lagging hm hp hc, alignCursors_zero hz]
    rfl

/-! ### The pool after RESET -/

theorem filledCount_resetCursors (s : State) : filledCount (resetCursors s) = 0 := by
  rw [filledCount, resetCursors_w, subN_self]

/-- The views stand at the cursors, so neither port sees a frame. -/
theorem filledSeen_resetCursors (d : DataPort) (s : State) : filledSeen d (resetCursors s) = 0 := by
  obtain ⟨hread, hwrite, hr⟩ := seen_resetCursors (s := s)
  cases d with
  | w => rw [filledSeen_w, hread, subN_self]
  | r => rw [filledSeen_r, hwrite, hr, subN_self]

/-- A pool of at least two slots has room for a frame, so a port that sees none does not see it full. -/
theorem fullSeen_of_filledSeen_eq_zero {d : DataPort} (hn : 2 ≤ s.cfg.n) (h : filledSeen d s = 0) :
    fullSeen d s = false := by
  rw [fullSeen_false_iff, h]
  omega

theorem exec_filled_of_empty {d : DataPort} (h : filledSeen d s = 0) :
    exec (.filled d) s = .next (respond d.port .ok 0 0 zeroFrame s) := by
  rw [exec, execFilled, h]
  rfl

theorem exec_isFull_of_room {d : DataPort} (h : fullSeen d s = false) :
    exec (.isFull d) s = .next (respond d.port .ok 0 0 zeroFrame s) := by
  rw [exec, execIsFull, h]
  rfl

/-- Settles O18: after RESET each port sees no frame and, since N is at least 2, no full pool. -/
theorem afterResetThePoolIsEmpty : Obligations.AfterResetThePoolIsEmpty := by
  intro s hv hstopped
  have hempty (d : DataPort) : filledSeen d (respond .c .ok 0 0 zeroFrame (resetCursors s)) = 0 := by
    rw [filledSeen_respond, filledSeen_resetCursors]
  have hroom (d : DataPort) : fullSeen d (respond .c .ok 0 0 zeroFrame (resetCursors s)) = false :=
    fullSeen_of_filledSeen_eq_zero (by simpa using hv.1.1) (hempty d)
  refine ⟨_, exec_reset_of_stopped hstopped, ?_, execUse_empty (hempty .r), exec_filled_of_empty (hempty .w),
    exec_filled_of_empty (hempty .r), exec_isFull_of_room (hroom .w), exec_isFull_of_room (hroom .r)⟩
  rw [filledCount_respond, filledCount_resetCursors]

end Sys2Proof.Machine
end

section
/-! The query commands (spec/41_queries.md): what FILLED and ISFULL answer, and that the room or the frames a port has seen stay
until that port's own agent takes them. -/

namespace Sys2Proof.Machine

variable {s t u : State} {o : Option Turn} {turn : Turn} {ts : List Turn}

/-! ### The answers -/

theorem exec_filled (p : DataPort) (s : State) :
    exec (.filled p) s = .next (respond p.port .ok 0 (zext32 (filledSeen p s)) zeroFrame s) := rfl

theorem exec_isFull (p : DataPort) (s : State) :
    exec (.isFull p) s =
      .next (respond p.port .ok 0 (if filledSeen p s ≥ s.cfg.n - 1 then 1 else 0) zeroFrame s) := by
  rw [exec, execIsFull, zext32_bit]
  simp [fullSeen]

/-- Settles O21. -/
theorem filledAnswersThePortsCount : Obligations.FilledAnswersThePortsCount := fun s =>
  ⟨exec_filled .w s, exec_filled .r s⟩

/-- Settles O22. -/
theorem isFullAnswersThePortsFlag : Obligations.IsFullAnswersThePortsFlag := fun s =>
  ⟨exec_isFull .w s, exec_isFull .r s⟩

/-! ### What each operation does to the counts that the ports see -/

theorem Sound.readIndexSeen_lt (hs : Sound s) : readIndexSeen s < s.cfg.n := by
  cases hm : s.cfg.syncMode with
  | shared => rw [readIndexSeen_shared hm]; exact hs.r_lt
  | lagging => rw [readIndexSeen_lagging hm]; exact (hs.views.range hm).1

theorem Sound.writeIndexSeen_lt (hs : Sound s) : writeIndexSeen s < s.cfg.n := by
  cases hm : s.cfg.syncMode with
  | shared => rw [writeIndexSeen_shared hm]; exact hs.w_lt
  | lagging => rw [writeIndexSeen_lagging hm]; exact (hs.views.range hm).2

/-- A store takes one place of the room that the write side sees. -/
theorem filledSeen_w_storeFrame (hs : Sound s) (hroom : fullSeen .w s = false) (f : Frame) :
    filledSeen .w (storeFrame f s) = filledSeen .w s + 1 :=
  subN_incN_left hs.w_lt hs.readIndexSeen_lt ((fullSeen_false_iff .w).mp hroom)

/-- A delivery takes one of the frames that the read side sees. -/
theorem filledSeen_r_deliverFrame (hs : Sound s) (hframe : filledSeen .r s ≠ 0) (f : Frame) :
    filledSeen .r (deliverFrame f s) + 1 = filledSeen .r s :=
  subN_incN_right hs.writeIndexSeen_lt hs.r_lt hframe

/-- The write side sees a delivery at once under SYNC_MODE = 0 and not before SYNC_R2W under SYNC_MODE = 1. -/
theorem filledSeen_w_deliverFrame_le (hs : Sound s) (hframe : filledSeen .r s ≠ 0) (f : Frame) :
    filledSeen .w (deliverFrame f s) ≤ filledSeen .w s := by
  cases hm : s.cfg.syncMode with
  | shared =>
    have hcount := filledCount_deliverFrame f hs.w_lt hs.r_lt (hs.views.filledCount_ne_zero hframe)
    rw [filledSeen_w, filledSeen_w, readIndexSeen_shared hm, readIndexSeen_shared (s := deliverFrame f s) hm]
    exact (Nat.le_succ _).trans_eq hcount
  | lagging =>
    rw [filledSeen_w, filledSeen_w, readIndexSeen_lagging hm, readIndexSeen_lagging (s := deliverFrame f s) hm]
    exact le_rfl

/-- The read side sees a store at once under SYNC_MODE = 0 and not before SYNC_W2R under SYNC_MODE = 1. -/
theorem filledSeen_r_le_storeFrame (hs : Sound s) (hroom : fullSeen .w s = false) (f : Frame) :
    filledSeen .r s ≤ filledSeen .r (storeFrame f s) := by
  cases hm : s.cfg.syncMode with
  | shared =>
    have hcount := filledCount_storeFrame f hs.w_lt hs.r_lt (hs.views.filledCount_lt hroom)
    rw [filledSeen_r, filledSeen_r, writeIndexSeen_shared hm, writeIndexSeen_shared (s := storeFrame f s) hm]
    exact (Nat.le_succ _).trans_eq hcount.symm
  | lagging =>
    rw [filledSeen_r, filledSeen_r, writeIndexSeen_lagging hm, writeIndexSeen_lagging (s := storeFrame f s) hm]
    exact le_rfl

/-- SYNC_R2W brings the write side's count down to the true one. -/
theorem filledSeen_w_syncReadToWrite (s : State) : filledSeen .w (syncReadToWrite s) = filledCount s := by
  rw [filledSeen_w, readIndexSeen_syncReadToWrite]
  rfl

/-- SYNC_W2R brings the read side's count up to the true one. -/
theorem filledSeen_r_syncWriteToRead (s : State) : filledSeen .r (syncWriteToRead s) = filledCount s := by
  rw [filledSeen_r, writeIndexSeen_syncWriteToRead]
  rfl

@[simp] theorem readIndexSeen_hardwareReset (s : State) : readIndexSeen (hardwareReset s) = 0 := by
  unfold readIndexSeen
  split <;> rfl

@[simp] theorem writeIndexSeen_hardwareReset (s : State) : writeIndexSeen (hardwareReset s) = 0 := by
  unfold writeIndexSeen
  split <;> rfl

/-- After hardware reset both cursors and both views are 0 (70_reset_and_hazards.md R270). -/
theorem filledSeen_hardwareReset (d : DataPort) (s : State) : filledSeen d (hardwareReset s) = 0 := by
  cases d with
  | w => rw [filledSeen_w, hardwareReset_w, readIndexSeen_hardwareReset, subN_self]
  | r => rw [filledSeen_r, hardwareReset_r, writeIndexSeen_hardwareReset, subN_self]

/-! ### What a step does to the counts -/

theorem any_isPrepareTurn : o.any isPrepareTurn = true ↔ ∃ f, o = some (.portW (commandWord .prepare) f) := by
  rcases o with _ | (_ | _ | _ | _ | _ | _ | _) <;> simp [isPrepareTurn]

theorem any_isUseTurn : o.any isUseTurn = true ↔ o = some (.portR (commandWord .use)) := by
  rcases o with _ | (_ | _ | _ | _ | _ | _ | _) <;> simp [isUseTurn]

/-- A PREPARE turn is an overrun where the write side sees a full pool, and otherwise a store. -/
theorem Effect.prepare_cases (h : Effect o u t) (hp : o.any isPrepareTurn = true) :
    (fullSeen .w u = true ∧ t = raise .overrun u) ∨ (fullSeen .w u = false ∧ ∃ f, t = storeFrame f u) := by
  obtain ⟨f, rfl⟩ := any_isPrepareTurn.mp hp
  cases h with
  | overrun _ hfull => exact .inl ⟨hfull, rfl⟩
  | stored _ hroom => exact .inr ⟨hroom, f, rfl⟩
  | answered _ _ _ _ hn => simp [isPrepareTurn] at hn
  | nothing h | readToWrite h | writeToRead h => simp at h

/-- A USE turn is an underrun where the read side sees an empty pool, and otherwise a delivery. -/
theorem Effect.use_cases (h : Effect o u t) (hd : o.any isUseTurn = true) :
    (filledSeen .r u = 0 ∧ t = raise .underrun u) ∨ (filledSeen .r u ≠ 0 ∧ ∃ f, t = deliverFrame f u) := by
  obtain rfl := any_isUseTurn.mp hd
  cases h with
  | underrun hempty => exact .inl ⟨hempty, rfl⟩
  | delivered f hframe => exact .inr ⟨hframe, f, rfl⟩
  | answered _ _ _ _ _ hn => simp [isUseTurn] at hn
  | nothing h | readToWrite h | writeToRead h => simp at h

/-- Either reset leaves no frame that a port sees. -/
theorem Effect.filledSeen_of_reset (h : Effect o u t) (hr : o.any isResetTurn = true) (d : DataPort) :
    filledSeen d t = 0 := by
  cases h with
  | reset => rw [filledSeen_respond, filledSeen_resetCursors]
  | rst => exact filledSeen_hardwareReset d u
  | answered _ _ _ _ _ _ hn => simp [hn] at hr
  | nothing h => obtain rfl | ⟨d, on, rfl⟩ := h <;> cases hr
  | readToWrite h | writeToRead h => obtain rfl | rfl := h <;> cases hr
  | overrun | stored | underrun | delivered => cases hr

/-- Only a PREPARE takes room from the write side (41_queries.md R162). -/
theorem Effect.filledSeen_w_le (h : Effect o u t) (hu : Sound u) (hp : o.any isPrepareTurn = false) :
    filledSeen .w t ≤ filledSeen .w u := by
  cases h with
  | nothing | writeToRead => exact le_rfl
  | answered => exact (filledSeen_respond ..).le
  | underrun => exact (filledSeen_raise ..).le
  | delivered f hframe => exact filledSeen_w_deliverFrame_le hu hframe f
  | reset => simp [filledSeen_resetCursors]
  | rst => simp [filledSeen_hardwareReset]
  | readToWrite => exact (filledSeen_w_syncReadToWrite u).trans_le hu.views.filledCount_le
  | overrun | stored => simp [isPrepareTurn] at hp

/-- Only a USE takes frames from the read side, resets aside (41_queries.md R163). -/
theorem Effect.filledSeen_r_le (h : Effect o u t) (hu : Sound u) (hd : o.any isUseTurn = false)
    (hr : o.any isResetTurn = false) : filledSeen .r u ≤ filledSeen .r t := by
  cases h with
  | nothing | readToWrite => exact le_rfl
  | answered => exact (filledSeen_respond ..).ge
  | overrun => exact (filledSeen_raise ..).ge
  | stored f hroom => exact filledSeen_r_le_storeFrame hu hroom f
  | writeToRead => exact hu.views.filledSeen_r_le.trans_eq (filledSeen_r_syncWriteToRead u).symm
  | underrun | delivered => simp [isUseTurn] at hd
  | reset | rst => simp [isResetTurn] at hr

/-- A PREPARE takes one place of the write side's room at most. -/
theorem Effect.filledSeen_w_le_succ (h : Effect o u t) (hu : Sound u) (hp : o.any isPrepareTurn = true) :
    filledSeen .w t ≤ filledSeen .w u + 1 := by
  obtain ⟨-, rfl⟩ | ⟨hroom, f, rfl⟩ := h.prepare_cases hp
  · exact (filledSeen_raise ..).le.trans (Nat.le_succ _)
  · exact (filledSeen_w_storeFrame hu hroom f).le

/-- A USE takes one of the read side's frames at most. -/
theorem Effect.filledSeen_r_le_succ (h : Effect o u t) (hu : Sound u) (hd : o.any isUseTurn = true) :
    filledSeen .r u ≤ filledSeen .r t + 1 := by
  obtain ⟨-, rfl⟩ | ⟨hframe, f, rfl⟩ := h.use_cases hd
  · exact (filledSeen_raise ..).ge.trans (Nat.le_succ _)
  · exact (filledSeen_r_deliverFrame hu hframe f).ge

/-! ### Runs along a list of turns -/

theorem Effect.pending_eq (h : Effect o u t) : t.pending = u.pending := by
  cases h <;> simp

/-- No turn changes the turns still to come. -/
theorem runTurn_pending (h : runTurn turn s = .next t) : t.pending = s.pending := by
  have hsync {move : State → State} (hmove : ∀ a, (move a).pending = a.pending) (h : runSync move s = .next t) :
      t.pending = s.pending := by
    unfold runSync at h
    split at h
    · cases h
    · cases h; exact hmove s
  cases turn with
  | portW cmd f => exact (effect_runWord h).pending_eq.trans (noteCommand_pending ..)
  | portR cmd => exact (effect_runWord h).pending_eq.trans (noteCommand_pending ..)
  | portC cmd => exact (effect_runWord h).pending_eq
  | syncR2W => exact hsync syncReadToWrite_pending h
  | syncW2R => exact hsync syncWriteToRead_pending h
  | rst => cases h; rfl
  | running d on => cases h; exact setRunning_pending ..

/-- A step takes the first of the turns and leaves the others. -/
theorem step_pending (h : step s = .next t) : t.pending = s.pending.tail := by
  obtain ⟨-, -, -, ⟨he, rfl⟩ | ⟨turn, rest, he, hr⟩⟩ := step_cases h
  · unfold settle
    split
    · simp [he]
    · split <;> simp [he]
  · rw [runTurn_pending hr, he, List.tail_cons]

/-- A run that takes the turns `ts` and then `k` steps more: a condition on the turns still to come and the state, kept by each
step, holds with no turns of `ts` left where the last `k` steps begin. -/
theorem runSteps_turns {P : List Turn → State → Prop}
    (hstep : ∀ {turn ts a b}, Sound a → a.pending.head? = some turn → step a = .next b → P (turn :: ts) a → P ts b)
    {tail : List Turn} {k : Nat} (hs : Sound s) (hp : s.pending = ts ++ tail) (hP : P ts s)
    (h : runSteps (ts.length + k) s = .next t) :
    ∃ u, Sound u ∧ u.pending = tail ∧ P [] u ∧ runSteps k u = .next t := by
  induction ts generalizing s with
  | nil => exact ⟨s, hs, hp, hP, by simpa using h⟩
  | cons turn ts ih =>
    rw [List.length_cons, Nat.add_right_comm, runSteps_succ] at h
    split at h
    · rename_i a ha
      refine ih (stepKeepsTheInvariant s a hs ha) ?_ (hstep hs (by rw [hp]; rfl) ha hP) h
      rw [step_pending ha, hp]
      rfl
    · cases h
    · cases h

theorem runSteps_one : runSteps 1 s = step s := by
  rw [runSteps_succ]
  cases step s <;> rfl

/-! ### Room that the write side has seen -/

/-- The write side sees more room than the PREPAREs of `ts` can take. -/
def RoomAfter (ts : List Turn) (s : State) : Prop := filledSeen .w s + ts.countP isPrepareTurn < s.cfg.n - 1

theorem RoomAfter.step (hs : Sound s) (hp : s.pending.head? = some turn) (h : step s = .next t)
    (hroom : RoomAfter (turn :: ts) s) : RoomAfter ts t := by
  obtain ⟨u, hu, he⟩ := step_effect h
  have hseen := hu.samePool.filledSeen_eq .w
  rw [hp] at he
  rw [RoomAfter, List.countP_cons] at hroom
  rw [RoomAfter, step_cfg h]
  cases hprepare : isPrepareTurn turn with
  | true =>
    have := he.filledSeen_w_le_succ (hs.sameBlock hu) (by simpa using hprepare)
    simp only [hprepare, if_true] at hroom
    omega
  | false =>
    have := he.filledSeen_w_le (hs.sameBlock hu) (by simpa using hprepare)
    omega

/-- Where the write side sees room, a PREPARE turn that answers responds OK. -/
theorem step_prepare_room (h : step s = .next t) (hp : s.pending.head?.any isPrepareTurn = true)
    (hroom : fullSeen .w s = false) : ∃ before slot, t.wOut = before ++ [⟨.ok, slot, 0⟩] := by
  obtain ⟨u, hu, he⟩ := step_effect h
  obtain ⟨hfull, -⟩ | ⟨-, f, rfl⟩ := he.prepare_cases hp
  · rw [hu.samePool.fullSeen_eq, hroom] at hfull
    cases hfull
  · exact ⟨_, _, storeFrame_wOut u f⟩

/-- Settles O45: `RoomAfter` holds along the turns before the PREPARE, since a PREPARE takes one place of the room at most and
no other turn takes any. -/
theorem roomSeenStaysRoom : Obligations.RoomSeenStaysRoom := by
  refine ⟨fun s t ts rest f hs hp hroom h => ?_, fun s t hs h => ?_⟩
  · have hafter : RoomAfter ts s := by
      rw [fullSeen_false_iff] at hroom
      unfold RoomAfter
      omega
    obtain ⟨u, -, hpend, hleft, hlast⟩ := runSteps_turns RoomAfter.step hs hp hafter h
    exact step_prepare_room (runSteps_one.symm.trans hlast) (by rw [hpend]; rfl) ((fullSeen_false_iff .w).mpr hleft)
  · obtain ⟨u, hu, he⟩ := step_effect h
    rw [← hu.samePool.filledSeen_eq .w, ← hu.samePool.rv]
    refine ⟨he.filledSeen_w_le (hs.sameBlock hu), fun hd => ?_, fun hr => he.filledSeen_of_reset hr .w⟩
    obtain ⟨-, rfl⟩ | ⟨-, f, rfl⟩ := he.use_cases hd
    · exact raise_rv ..
    · exact deliverFrame_rv ..

/-! ### Frames that the read side has seen -/

/-- No turn of `ts` is a reset, and the read side sees more frames than the USEs among them can take. -/
def FramesAfter (ts : List Turn) (s : State) : Prop :=
  ts.all (fun x => !isResetTurn x) = true ∧ ts.countP isUseTurn < filledSeen .r s

theorem FramesAfter.step (hs : Sound s) (hp : s.pending.head? = some turn) (h : step s = .next t)
    (hframes : FramesAfter (turn :: ts) s) : FramesAfter ts t := by
  obtain ⟨u, hu, he⟩ := step_effect h
  have hseen := hu.samePool.filledSeen_eq .r
  obtain ⟨hreset, hcount⟩ := hframes
  obtain ⟨hturn, hreset⟩ : isResetTurn turn = false ∧ ts.all (fun x => !isResetTurn x) = true := by simpa using hreset
  rw [hp] at he
  rw [List.countP_cons] at hcount
  refine ⟨hreset, ?_⟩
  cases huse : isUseTurn turn with
  | true =>
    have := he.filledSeen_r_le_succ (hs.sameBlock hu) (by simpa using huse)
    simp only [huse, if_true] at hcount
    omega
  | false =>
    have := he.filledSeen_r_le (hs.sameBlock hu) (by simpa using huse) (by simpa using hturn)
    omega

/-- Where the read side sees a frame, a USE turn that answers responds OK with one. -/
theorem step_use_frame (h : step s = .next t) (hd : s.pending.head?.any isUseTurn = true)
    (hframe : filledSeen .r s ≠ 0) : ∃ before slot frame, t.rOut = before ++ [⟨.ok, slot, 0, frame⟩] := by
  obtain ⟨u, hu, he⟩ := step_effect h
  obtain ⟨hempty, -⟩ | ⟨-, f, rfl⟩ := he.use_cases hd
  · exact absurd (hu.samePool.filledSeen_eq .r ▸ hempty) hframe
  · exact ⟨_, _, _, deliverFrame_rOut u f⟩

/-- Settles O46: `FramesAfter` holds along the turns before the USE, since a USE takes one frame at most and no other turn but a
reset takes any. -/
theorem framesSeenStayFrames : Obligations.FramesSeenStayFrames := by
  refine ⟨fun s t ts rest hs hp hreset hcount h => ?_, fun s t hs h => ?_⟩
  · obtain ⟨u, -, hpend, ⟨-, hleft⟩, hlast⟩ := runSteps_turns FramesAfter.step hs hp ⟨hreset, hcount⟩ h
    exact step_use_frame (runSteps_one.symm.trans hlast) (by rw [hpend]; rfl) (Nat.ne_zero_of_lt hleft)
  · obtain ⟨u, hu, he⟩ := step_effect h
    rw [← hu.samePool.filledSeen_eq .r, ← hu.samePool.wv]
    refine ⟨he.filledSeen_r_le (hs.sameBlock hu), fun hp => ?_⟩
    obtain ⟨-, rfl⟩ | ⟨-, f, rfl⟩ := he.prepare_cases hp
    · exact raise_wv ..
    · exact storeFrame_wv ..

end Sys2Proof.Machine
end

section
/-! The write port (spec/42_write_port.md): what PREPARE does with room and without, and the flags that a success on either data
port writes. -/

namespace Sys2Proof.Machine

variable {s : State}

/-! ### The two outcomes of PREPARE -/

/-- Settles O25: the outcome is `storeFrame`, and the slots are read by the laws of `memWrite`. -/
theorem prepareStoresItsFrame : Obligations.PrepareStoresItsFrame := fun s f hroom =>
  ⟨storeFrame f s, execPrepare_room ((fullSeen_false_iff .w).mpr hroom), rfl, memRead_memWrite_same s.slots s.w f,
    fun _ hi => memRead_memWrite_ne s.slots f hi⟩

/-- Settles O26: the outcome is `raise .overrun`, whose response and count are the ones named. -/
theorem prepareOverrunsWhenFull : Obligations.PrepareOverrunsWhenFull := fun _ _ hfull =>
  execPrepare_full ((fullSeen_iff .w).mpr hfull)

/-! ### The flags as the counts that the ports see -/

theorem wFilled_eq_filledSeen (s : State) : wFilled s = filledSeen .w s := rfl

theorem rFilled_eq_filledSeen (s : State) : rFilled s = filledSeen .r s := rfl

theorem rEmpty_iff : rEmpty s = true ↔ filledSeen .r s = 0 := decide_eq_true_iff

theorem rEmpty_false_iff : rEmpty s = false ↔ filledSeen .r s ≠ 0 := decide_eq_false_iff_not

/-! ### The count of the other port, in each mode -/

/-- Under SYNC_MODE = 0 both ports see the true count (10_state.md R38). -/
theorem filledSeen_shared (hm : s.cfg.syncMode = .shared) (p : DataPort) : filledSeen p s = filledCount s := by
  cases p with
  | w => rw [filledSeen_w, readIndexSeen_shared hm, filledCount]
  | r => rw [filledSeen_r, writeIndexSeen_shared hm, filledCount]

theorem filledSeen_r_storeFrame_shared (hs : Sound s) (hroom : fullSeen .w s = false) (f : Frame)
    (hm : s.cfg.syncMode = .shared) : filledSeen .r (storeFrame f s) = filledSeen .r s + 1 := by
  rw [filledSeen_shared (s := storeFrame f s) hm, filledSeen_shared hm]
  exact filledCount_storeFrame f hs.w_lt hs.r_lt (hs.views.filledCount_lt hroom)

theorem filledSeen_r_storeFrame_lagging (f : Frame) (hm : s.cfg.syncMode = .lagging) :
    filledSeen .r (storeFrame f s) = filledSeen .r s := by
  rw [filledSeen_r, filledSeen_r, writeIndexSeen_lagging (s := storeFrame f s) hm, writeIndexSeen_lagging hm]
  rfl

theorem filledSeen_w_deliverFrame_shared (hs : Sound s) (hframe : filledSeen .r s ≠ 0) (f : Frame)
    (hm : s.cfg.syncMode = .shared) : filledSeen .w (deliverFrame f s) + 1 = filledSeen .w s := by
  rw [filledSeen_shared (s := deliverFrame f s) hm, filledSeen_shared hm]
  exact filledCount_deliverFrame f hs.w_lt hs.r_lt (hs.views.filledCount_ne_zero hframe)

theorem filledSeen_w_deliverFrame_lagging (f : Frame) (hm : s.cfg.syncMode = .lagging) :
    filledSeen .w (deliverFrame f s) = filledSeen .w s := by
  rw [filledSeen_w, filledSeen_w, readIndexSeen_lagging (s := deliverFrame f s) hm, readIndexSeen_lagging hm]
  rfl

/-! ### The flags after a success -/

/-- A store fills the pool that the write side sees exactly where it took the last place. -/
theorem wFull_storeFrame_iff (hs : Sound s) (hroom : fullSeen .w s = false) (f : Frame) :
    wFull (storeFrame f s) = true ↔ filledSeen .w s + 1 = s.cfg.n - 1 := by
  have hle : filledSeen .w s + 1 ≤ s.cfg.n - 1 := (fullSeen_false_iff .w).mp hroom
  rw [wFull_eq_fullSeen, fullSeen_iff, filledSeen_w_storeFrame hs hroom, storeFrame_cfg]
  exact hle.ge_iff_eq

theorem rEmpty_storeFrame_shared (hs : Sound s) (hroom : fullSeen .w s = false) (f : Frame)
    (hm : s.cfg.syncMode = .shared) : rEmpty (storeFrame f s) = false := by
  rw [rEmpty_false_iff, filledSeen_r_storeFrame_shared hs hroom f hm]
  exact Nat.succ_ne_zero _

/-- A delivery empties the pool that the read side sees exactly where it took the last frame. -/
theorem rEmpty_deliverFrame_iff (hs : Sound s) (hframe : filledSeen .r s ≠ 0) (f : Frame) :
    rEmpty (deliverFrame f s) = true ↔ filledSeen .r s = 1 := by
  rw [rEmpty_iff, ← filledSeen_r_deliverFrame hs hframe f, Nat.add_eq_right]

/-- The count was at most N − 1 and is one less now. -/
theorem wFull_deliverFrame_shared (hs : Sound s) (hframe : filledSeen .r s ≠ 0) (f : Frame)
    (hm : s.cfg.syncMode = .shared) : wFull (deliverFrame f s) = false := by
  rw [wFull_eq_fullSeen, fullSeen_false_iff]
  exact (filledSeen_w_deliverFrame_shared hs hframe f hm).trans_le hs.views.writeBound

/-- Settles O31: a PREPARE that sees room is a store and a USE that sees a frame is a delivery; each moves its own port's count
by one, and the other port's where that port reads the cursor itself. -/
theorem successMovesTheFlags : Obligations.SuccessMovesTheFlags := by
  refine fun s t hs => ⟨fun f hroom h => ?_, fun hframe h => ?_⟩
  · obtain ⟨hfull, -⟩ | ⟨-, rfl⟩ := execPrepare_cases h
    · rw [hroom] at hfull
      cases hfull
    · simp only [wFilled_eq_filledSeen, rFilled_eq_filledSeen]
      exact ⟨filledSeen_w_storeFrame hs hroom f, wFull_storeFrame_iff hs hroom f,
        fun hm => ⟨filledSeen_r_storeFrame_shared hs hroom f hm, rEmpty_storeFrame_shared hs hroom f hm⟩,
        filledSeen_r_storeFrame_lagging f⟩
  · obtain ⟨hempty, -⟩ | ⟨-, f, -, rfl⟩ := execUse_cases h
    · exact absurd hempty hframe
    · simp only [wFilled_eq_filledSeen, rFilled_eq_filledSeen]
      exact ⟨filledSeen_r_deliverFrame hs hframe f, rEmpty_deliverFrame_iff hs hframe f,
        fun hm => ⟨filledSeen_w_deliverFrame_shared hs hframe f hm, wFull_deliverFrame_shared hs hframe f hm⟩,
        filledSeen_w_deliverFrame_lagging f⟩

end Sys2Proof.Machine
end

section
/-! The read port (spec/43_read_port.md): what USE does with a frame in sight and without, and that its response frame is what
the Consumer gives to the device. -/

namespace Sys2Proof.Machine

variable {s t : State} {y : System}

/-! ### The two outcomes of USE -/

/-- Settles O27: the outcome is `deliverFrame`, whose cursor is the old `R` advanced modulo N. -/
theorem useDeliversTheFrame : Obligations.UseDeliversTheFrame := fun _ _ hframe hf => execUse_frame hframe hf

/-- Settles O28: the outcome is `raise .underrun`, whose response and count are the ones named. -/
theorem useUnderrunsWhenEmpty : Obligations.UseUnderrunsWhenEmpty := fun _ hempty => execUse_empty hempty

/-! ### The response frame, given to the device -/

/-- Every USE of a sound block adds one response, and its frame is what the Consumer callback is to write out: SILENCE, or the
head of the queue (43_read_port.md R201). -/
theorem Sound.exec_use_answers (hs : Sound s) :
    ∃ t x, exec .use s = .next t ∧ t.rOut = s.rOut ++ [x] ∧ (filledSeen .r s = 0 → x.frame = silence) ∧
      (filledSeen .r s ≠ 0 → (contents s).head? = some (s.r, x.frame)) := by
  obtain hempty | hframe := eq_or_ne (filledSeen .r s) 0
  · exact ⟨_, _, execUse_empty hempty, raise_underrun_rOut s, fun _ => rfl, fun hframe => absurd hempty hframe⟩
  · obtain ⟨f, hf⟩ := hs.exists_memRead hframe
    refine ⟨_, _, execUse_frame hframe hf, deliverFrame_rOut s f, fun hempty => absurd hempty hframe, fun _ => ?_⟩
    rw [contents_deliverFrame hs hframe hf, List.head?_cons]

/-- A callback gives the device the frame of the response that its USE adds. -/
theorem consumerTick_of_use {x : RResponse} {out : List RResponse} (hs : Sound (noteAgent .r y).block)
    (ht : exec .use (noteCommand .r (commandWord .use) (noteAgent .r y).block) = .next t) (hx : t.rOut = out ++ [x]) :
    consumerTick y = .next { y with block := t, device := y.device ++ [x.frame] } := by
  rw [consumerTick, issue_checked hs.checked, runTurn_use, ht]
  simp [hx]

/-- The block that a callback's USE runs on differs from the block at rest in the note of who runs alone. -/
theorem sameBlock_consumerNoted (y : System) :
    SameBlock y.block (noteCommand .r (commandWord .use) (noteAgent .r y).block) :=
  ⟨_, _, _, rfl⟩

/-- Settles O51: the USE of the callback answers as on the block itself, and its frame goes to the device. -/
theorem consumerGivesTheDeviceOneFrame : Obligations.ConsumerGivesTheDeviceOneFrame := by
  intro y hs
  have hsame := sameBlock_consumerNoted y
  obtain ⟨t, x, ht, hx, hempty, hframe⟩ := (hs.sameBlock hsame).exec_use_answers
  rw [hsame.samePool.filledSeen_eq] at hempty hframe
  rw [hsame.samePool.contents_eq, hsame.samePool.r] at hframe
  refine ⟨_, consumerTick_of_use (hs.sameBlock noteAgent_same.1) ht hx, rfl, fun h => ?_, fun h => ?_⟩
  · rw [hempty h]
  · exact ⟨x.frame, hframe h, rfl⟩

end Sys2Proof.Machine
end

section
/-! The metrics (spec/44_metrics.md): what the metric reads answer, and which steps count. -/

namespace Sys2Proof.Machine

variable {s t u : State} {o : Option Turn}

/-! ### The metric reads -/

theorem exec_rdUnderruns (s : State) :
    exec .rdUnderruns s = .next (respond .c .ok 0 (zext32 s.ucnt) zeroFrame s) := rfl

theorem exec_rdOverruns (s : State) :
    exec .rdOverruns s = .next (respond .c .ok 0 (zext32 s.ocnt) zeroFrame s) := rfl

/-- CNT_W is at most 32, so the response field holds every counter value. -/
theorem zext32_toNat_of_counter {c : Config} {k : Nat} (hv : c.Valid) (hk : k < 2 ^ c.cntW) : (zext32 k).toNat = k := by
  obtain ⟨-, -, -, -, -, -, hcnt⟩ := hv
  exact zext32_toNat (hk.trans_le (Nat.pow_le_pow_right Nat.two_pos hcnt))

/-- Settles O34. -/
theorem metricReadsAnswerTheCounter : Obligations.MetricReadsAnswerTheCounter := fun s =>
  ⟨exec_rdUnderruns s, exec_rdOverruns s,
    fun hv hu ho => ⟨zext32_toNat_of_counter hv hu, zext32_toNat_of_counter hv ho⟩⟩

/-! ### What counts -/

theorem SameBlock.ocnt (h : SameBlock s u) : u.ocnt = s.ocnt := by
  obtain ⟨ts, a, b, rfl⟩ := h
  rfl

theorem SameBlock.ucnt (h : SameBlock s u) : u.ucnt = s.ucnt := by
  obtain ⟨ts, a, b, rfl⟩ := h
  rfl

theorem Effect.ocnt_owner (h : Effect o u t) (hne : t.ocnt ≠ u.ocnt) : o.any isPrepareTurn = true ∨ o = some .rst := by
  cases h with
  | overrun => left; simp [isPrepareTurn]
  | rst => exact .inr rfl
  | _ => simp at hne

theorem Effect.ucnt_owner (h : Effect o u t) (hne : t.ucnt ≠ u.ucnt) : o.any isUseTurn = true ∨ o = some .rst := by
  cases h with
  | underrun => left; simp [isUseTurn]
  | rst => exact .inr rfl
  | _ => simp at hne

theorem Effect.eq_hardwareReset (h : Effect o u t) (ho : o = some .rst) : t = hardwareReset u := by
  subst ho
  cases h with
  | rst => rfl
  | answered _ _ _ _ _ _ hn => cases hn
  | nothing h | readToWrite h | writeToRead h => simp at h

/-- A PREPARE turn ends in an overrun, which counts and responds NONE, or in a store, which does neither; no other turn but
hardware reset is an owner of `OCNT`. -/
theorem Effect.ocnt_eq (h : Effect o u t) (hrst : o ≠ some .rst) :
    t.ocnt = if o.any isPrepareTurn = true ∧ t.wOut.getLast?.map (·.status) = some .none
      then countUp u.cfg.cntW u.ocnt else u.ocnt := by
  by_cases hp : o.any isPrepareTurn = true
  · obtain ⟨-, rfl⟩ | ⟨-, f, rfl⟩ := h.prepare_cases hp <;> simp [hp]
  · rw [if_neg fun hcount => hp hcount.1]
    exact by_contra fun hne => (h.ocnt_owner hne).elim hp hrst

/-- A USE turn ends in an underrun, which counts and responds NONE, or in a delivery, which does neither; no other turn but
hardware reset is an owner of `UCNT`. -/
theorem Effect.ucnt_eq (h : Effect o u t) (hrst : o ≠ some .rst) :
    t.ucnt = if o.any isUseTurn = true ∧ t.rOut.getLast?.map (·.status) = some .none
      then countUp u.cfg.cntW u.ucnt else u.ucnt := by
  by_cases hd : o.any isUseTurn = true
  · obtain ⟨-, rfl⟩ | ⟨-, f, rfl⟩ := h.use_cases hd <;> simp [hd]
  · rw [if_neg fun hcount => hd hcount.1]
    exact by_contra fun hne => (h.ucnt_owner hne).elim hd hrst

/-- Settles O35: the step's effect says what becomes of each counter, and the note of who runs changes neither. -/
theorem onlyNonesAreCounted : Obligations.OnlyNonesAreCounted := by
  intro s t h
  obtain ⟨u, hu, he⟩ := step_effect h
  refine ⟨fun hrst => ?_, fun hrst => ?_⟩
  · rw [he.eq_hardwareReset hrst]
    exact ⟨hardwareReset_ocnt u, hardwareReset_ucnt u⟩
  · rw [← hu.samePool.cfg, ← hu.ocnt, ← hu.ucnt]
    exact ⟨he.ocnt_eq hrst, he.ucnt_eq hrst⟩

end Sys2Proof.Machine
end

section
/-! The conditions (spec/60_exceptions.md): a PREPARE and a USE of one clock cycle, taken in either order, and that a sound block
answers every admissible turn. -/

namespace Sys2Proof.Machine

variable {s : State} {d : DataPort} {p : Port} {cmd : Byte} {f g : Frame} {i : Instr}

/-! ### What one data port's command leaves of the other's condition -/

theorem fullSeen_raise (c : Condition) : fullSeen d (raise c s) = fullSeen d s := (SamePool.raise c s).fullSeen_eq d

/-- A store writes no slot that holds an undelivered frame, so it leaves the frame that USE is to deliver. -/
theorem memRead_r_storeFrame (hs : Sound s) (h : filledCount s ≠ 0) (f : Frame) :
    memRead (storeFrame f s).slots s.r = memRead s.slots s.r := by
  refine memRead_memWrite_ne s.slots f fun hrw => ?_
  exact w_notMem_poolSlots hs.w_lt hs.r_lt (hrw ▸ r_mem_poolSlots hs.r_lt h)

/-- Away from the full pool a delivery leaves the full flag of the write side. -/
theorem fullSeen_w_deliverFrame (hs : Sound s) (hroom : s.cfg.syncMode = .shared → filledCount s < s.cfg.n - 1)
    (hframe : filledSeen .r s ≠ 0) (g : Frame) : fullSeen .w (deliverFrame g s) = fullSeen .w s := by
  cases hm : s.cfg.syncMode with
  | shared =>
    have hbefore : fullSeen .w s = false := by
      rw [fullSeen_false_iff, filledSeen_shared hm]
      exact hroom hm
    exact (wFull_deliverFrame_shared hs hframe g hm).trans hbefore.symm
  | lagging => rw [fullSeen, fullSeen, filledSeen_w_deliverFrame_lagging g hm, deliverFrame_cfg]

/-- Away from the empty pool a store leaves the empty flag of the read side. -/
theorem filledSeen_r_storeFrame_eq_zero_iff (hs : Sound s) (hframe : s.cfg.syncMode = .shared → 0 < filledCount s)
    (hroom : fullSeen .w s = false) (f : Frame) : filledSeen .r (storeFrame f s) = 0 ↔ filledSeen .r s = 0 := by
  cases hm : s.cfg.syncMode with
  | shared =>
    have hbefore : filledSeen .r s ≠ 0 := by
      rw [filledSeen_shared hm]
      exact (hframe hm).ne'
    have hafter : filledSeen .r (storeFrame f s) ≠ 0 := by
      rw [filledSeen_r_storeFrame_shared hs hroom f hm]
      exact Nat.succ_ne_zero _
    exact iff_of_false hafter hbefore
  | lagging => rw [filledSeen_r_storeFrame_lagging f hm]

/-! ### Both orders away from the bounds -/

/-- Settles O32: neither command changes which of its two outcomes the other one has, and the two write different
parts of the state, so each pair of outcomes makes one and the same record in either order. -/
theorem sameCycleOrdersAgree : Obligations.SameCycleOrdersAgree := by
  intro s f hs haway
  have huse := filledSeen_r_storeFrame_eq_zero_iff hs (fun hm => (haway hm).1) (f := f)
  have hprepare := fullSeen_w_deliverFrame hs fun hm => (haway hm).2
  cases hfull : fullSeen .w s with
  | true =>
    obtain hempty | hframe := eq_or_ne (filledSeen .r s) 0
    · exact ⟨raise .overrun s, raise .underrun s, raise .underrun (raise .overrun s), execPrepare_full hfull,
        execUse_empty (by rwa [filledSeen_raise]), execUse_empty hempty, execPrepare_full (by rwa [fullSeen_raise])⟩
    · obtain ⟨g, hg⟩ := hs.exists_memRead hframe
      exact ⟨raise .overrun s, deliverFrame g s, deliverFrame g (raise .overrun s), execPrepare_full hfull,
        execUse_frame (by rwa [filledSeen_raise]) hg, execUse_frame hframe hg,
        execPrepare_full (by rwa [hprepare hframe g])⟩
  | false =>
    obtain hempty | hframe := eq_or_ne (filledSeen .r s) 0
    · exact ⟨storeFrame f s, raise .underrun s, raise .underrun (storeFrame f s), execPrepare_room hfull,
        execUse_empty ((huse hfull).mpr hempty), execUse_empty hempty, execPrepare_room (by rwa [fullSeen_raise])⟩
    · obtain ⟨g, hg⟩ := hs.exists_memRead hframe
      have hkept := memRead_r_storeFrame hs (hs.views.filledCount_ne_zero hframe) f
      exact ⟨storeFrame f s, deliverFrame g s, deliverFrame g (storeFrame f s), execPrepare_room hfull,
        execUse_frame (mt (huse hfull).mp hframe) (hkept.trans hg), execUse_frame hframe hg,
        execPrepare_room (by rwa [hprepare hframe g])⟩

/-! ### Both orders at the bounds -/

/-- The frame that a store puts into an empty pool is the one in slot `R`. -/
theorem memRead_r_storeFrame_empty (hs : Sound s) (h : filledCount s = 0) (f : Frame) :
    memRead (storeFrame f s).slots s.r = some f := by
  rw [storeFrame_slots, (subN_eq_zero_iff hs.r_lt).mp h, memRead_memWrite_same]

/-- A USE after a PREPARE into an empty pool delivers the new frame. -/
theorem prepare_then_use_of_empty (hs : Sound s) (hm : s.cfg.syncMode = .shared) (h : filledCount s = 0) (f : Frame) :
    exec (.prepare f) s = .next (storeFrame f s) ∧
      exec .use (storeFrame f s) = .next (deliverFrame f (storeFrame f s)) := by
  obtain ⟨⟨hn, -⟩, -⟩ := hs.valid
  have hroom : fullSeen .w s = false := fullSeen_of_filledSeen_eq_zero hn ((filledSeen_shared hm .w).trans h)
  refine ⟨execPrepare_room hroom, execUse_frame ?_ (memRead_r_storeFrame_empty hs h f)⟩
  rw [filledSeen_r_storeFrame_shared hs hroom f hm]
  exact Nat.succ_ne_zero _

/-- A PREPARE after a USE from a full pool stores into the slot that `W` names. -/
theorem use_then_prepare_of_full (hs : Sound s) (hm : s.cfg.syncMode = .shared) (h : filledCount s = s.cfg.n - 1) (f : Frame) :
    ∃ g, exec .use s = .next (deliverFrame g s) ∧
      exec (.prepare f) (deliverFrame g s) = .next (storeFrame f (deliverFrame g s)) := by
  obtain ⟨⟨hn, -⟩, -⟩ := hs.valid
  have hframe : filledSeen .r s ≠ 0 := by
    rw [filledSeen_shared hm]
    omega
  obtain ⟨g, hg⟩ := hs.exists_memRead hframe
  exact ⟨g, execUse_frame hframe hg, execPrepare_room (wFull_deliverFrame_shared hs hframe g hm)⟩

/-- Settles O33: under SYNC_MODE = 0 both ports see the true count, so at a bound the command that goes first finds it and the
one that goes second does not. -/
theorem sameCycleAtTheBounds : Obligations.SameCycleAtTheBounds := by
  refine fun s f hs hm => ⟨fun hempty => ⟨?_, ?_⟩, fun hfull => ⟨?_, ?_⟩⟩
  · exact ⟨_, execUse_empty ((filledSeen_shared hm .r).trans hempty), raise_underrun_rOut s⟩
  · obtain ⟨hprepare, huse⟩ := prepare_then_use_of_empty hs hm hempty f
    exact ⟨_, _, hprepare, huse, deliverFrame_rOut (storeFrame f s) f⟩
  · have hseen : fullSeen .w s = true := by
      rw [fullSeen_iff, filledSeen_shared hm, hfull]
    exact ⟨_, execPrepare_full hseen, raise_overrun_wOut s⟩
  · obtain ⟨g, huse, hprepare⟩ := use_then_prepare_of_full hs hm hfull f
    exact ⟨_, _, huse, hprepare, storeFrame_wOut (deliverFrame g s) f⟩

/-! ### Every admissible turn is answered -/

/-- The RESET that 70_reset_and_hazards.md R281 leaves undefined is the only command that a sound block does not answer. -/
theorem Sound.exec_answers (hs : Sound s)
    (hreset : i = .reset → s.cfg.syncMode = .lagging → agentsRunning s = false) : ∃ t, exec i s = .next t := by
  cases i with
  | prepare f =>
    obtain ⟨t, ht, -⟩ := exec_prepare_answers f s
    exact ⟨t, ht⟩
  | use =>
    obtain ⟨t, -, ht, -⟩ := hs.exec_use_answers
    exact ⟨t, ht⟩
  | reset => exact ⟨_, execReset_quiet (hreset rfl)⟩
  | nop | filled | isFull | rdUnderruns | rdOverruns => exact ⟨_, rfl⟩

/-- A word is run as a command or answered ILLEGAL, unless it is a PREPARE whose operand has another width. -/
theorem Sound.runWord_answers (hs : Sound s) (hwidth : p = .w → cmd = commandWord .prepare → s.cfg.Fits f)
    (hreset : p = .c → cmd = commandWord .reset → s.cfg.syncMode = .lagging → agentsRunning s = false) :
    ∃ t, runWord p cmd f s = .next t := by
  cases hill : illegalWord p cmd with
  | true => exact ⟨_, runWord_of_illegal hill⟩
  | false =>
    obtain ⟨i, hi⟩ := exists_decode_iff.mpr ⟨hill, hwidth⟩
    obtain ⟨hcmd, hport, -⟩ := decode_ok hi
    rw [runWord_of_decode hi]
    refine hs.exec_answers ?_
    rintro rfl
    exact hreset hport hcmd

/-- Settles O41: the checks of a step pass, and each kind of turn that is admissible has an answer. -/
theorem soundBlocksAnswerEveryTurn : Obligations.SoundBlocksAnswerEveryTurn := by
  intro s hs hadm
  cases hp : s.pending with
  | nil =>
    obtain ⟨hvalid, hrange, hstatus⟩ := hs.checked
    exact ⟨settle s, by rw [step_eq_runNext hvalid hrange hstatus, runNext, hp]⟩
  | cons turn rest =>
    have hturn : admissible s turn = true := by simpa [hp] using hadm
    rw [step_of_pending hs.checked hp]
    cases turn with
    | portW cmd f =>
      refine (hs.sameBlock (.note .w cmd)).runWord_answers (fun _ hcmd => ?_) nofun
      rw [noteCommand_cfg]
      exact of_decide_eq_true hturn hcmd
    | portR cmd => exact (hs.sameBlock (.note .r cmd)).runWord_answers nofun nofun
    | portC cmd =>
      exact (hs.sameBlock ⟨rest, _, _, rfl⟩).runWord_answers nofun fun _ => of_decide_eq_true hturn
    | syncR2W | syncW2R => exact ⟨_, runSync_lagging (of_decide_eq_true hturn)⟩
    | rst | running => exact ⟨_, rfl⟩

end Sys2Proof.Machine
end

section
/-! Reset (spec/70_reset_and_hazards.md): who is noted as running, the block after hardware reset, what stops a RESET and a USE,
and how a run comes to its end. -/

namespace Sys2Proof.Machine

variable {s : State} {cmd : Byte}

/-! ### Who runs -/

theorem mem_agentWords_w : cmd ∈ agentWords .w ↔ cmd = 0x01 ∨ cmd = 0x02 ∨ cmd = 0x03 := by
  rw [show agentWords .w = [0x01, 0x02, 0x03] from rfl]
  simp

theorem mem_agentWords_r : cmd ∈ agentWords .r ↔ cmd = 0x02 ∨ cmd = 0x03 ∨ cmd = 0x04 := by
  rw [show agentWords .r = [0x02, 0x03, 0x04] from rfl]
  simp

theorem noteCommand_of_mem {d : DataPort} (h : cmd ∈ agentWords d) : noteCommand d cmd s = setRunning d true s := if_pos h

theorem noteCommand_of_notMem {d : DataPort} (h : cmd ∉ agentWords d) : noteCommand d cmd s = s := if_neg h

/-- Settles O8. -/
theorem commandsNoteTheirAgent : Obligations.CommandsNoteTheirAgent := by
  refine fun s cmd => ⟨fun h => ?_, fun h => ?_, fun h1 h2 h3 => ?_, fun h2 h3 h4 => ?_⟩
  · exact noteCommand_of_mem (mem_agentWords_w.mpr h)
  · exact noteCommand_of_mem (mem_agentWords_r.mpr h)
  · exact noteCommand_of_notMem fun h => (mem_agentWords_w.mp h).elim h1 fun h => h.elim h2 h3
  · exact noteCommand_of_notMem fun h => (mem_agentWords_r.mp h).elim h2 fun h => h.elim h3 h4

/-- Settles O13. -/
theorem agentsStartAndStop : Obligations.AgentsStartAndStop :=
  fun _ _ _ hc => ⟨step_of_pending hc, step_of_pending hc⟩

/-! ### The block after hardware reset, and what stops a command -/

/-- Settles O11: with both cursors and both views 0 neither port sees a frame, and N is at least 2. -/
theorem hardwareResetSetsTheState : Obligations.HardwareResetSetsTheState := by
  intro s rest hc hp
  have hempty (d : DataPort) : filledSeen d (hardwareReset { s with pending := rest }) = 0 := filledSeen_hardwareReset d _
  obtain ⟨⟨hn, -⟩, -⟩ := hc.1
  refine ⟨hardwareReset { s with pending := rest }, step_of_pending hc hp, rfl, ?_, rEmpty_iff.mpr (hempty .r), hempty .w,
    hempty .r, hempty .w, hempty .r⟩
  exact fullSeen_of_filledSeen_eq_zero (d := .w) hn (hempty .w)

/-- Settles O12. -/
theorem resetStateValues : Obligations.ResetStateValues := by
  refine ⟨fun c => ⟨rfl, rfl, rfl, rfl, rfl, rfl, rfl, ?_⟩, rfl⟩
  rw [poolEmpty, decide_eq_true_iff]
  exact subN_self

theorem valid_default : Config.default.Valid := by decide

/-- Settles O37: the default configuration is legal. -/
theorem resetIsSound : Obligations.ResetIsSound := sound_construct valid_default []

/-- Settles O17. -/
theorem resetWhileRunningFaults : Obligations.ResetWhileRunningFaults :=
  fun _ hm hrun => execReset_running hm (Bool.or_eq_true_iff.mpr hrun)

/-- Settles O29. -/
theorem useOfAnUnwrittenSlotFaults : Obligations.UseOfAnUnwrittenSlotFaults := fun _ hframe hf => execUse_unwritten hframe hf

/-! ### The end of a run -/

/-- With no turn left a checked block settles its views. -/
theorem step_of_no_turn (h : Checked s) (hp : s.pending = []) : step s = .next (settle s) := by
  obtain ⟨hvalid, hrange, hstatus⟩ := h
  rw [step_eq_runNext hvalid hrange hstatus, runNext, hp]

theorem syncR2WEnabled_iff : syncR2WEnabled s = true ↔ s.cfg.syncMode = .lagging ∧ s.rv ≠ s.r := decide_eq_true_iff

theorem syncW2REnabled_iff : syncW2REnabled s = true ↔ s.cfg.syncMode = .lagging ∧ s.wv ≠ s.w := decide_eq_true_iff

theorem atEnd_iff :
    atEnd s = true ↔ s.pending = [] ∧ syncR2WEnabled s = false ∧ syncW2REnabled s = false := by
  simp [atEnd, and_assoc]

theorem settle_of_readToWrite (h : syncR2WEnabled s = true) : settle s = syncReadToWrite s := if_pos h

theorem settle_of_writeToRead (h : syncR2WEnabled s = false) (hw : syncW2REnabled s = true) :
    settle s = syncWriteToRead s := by
  simp [settle, h, hw]

theorem settle_of_settled (h : syncR2WEnabled s = false) (hw : syncW2REnabled s = false) : settle s = s := by
  simp [settle, h, hw]

/-- Settles O48. -/
theorem idleBlocksSettle : Obligations.IdleBlocksSettle := by
  intro s hc hp
  rw [step_of_no_turn hc hp]
  refine ⟨fun hm hrv => ?_, fun hm hrv hwv => ?_, fun hend => ?_⟩
  · rw [settle_of_readToWrite (syncR2WEnabled_iff.mpr ⟨hm, hrv⟩)]
    rfl
  · rw [settle_of_writeToRead (by simp [syncR2WEnabled, hrv]) (syncW2REnabled_iff.mpr ⟨hm, hwv⟩)]
    rfl
  · obtain ⟨-, hr, hw⟩ := atEnd_iff.mp hend
    rw [settle_of_settled hr hw]

/-- One step of settling brings the write side's view to its cursor. -/
theorem syncR2WEnabled_settle (s : State) : syncR2WEnabled (settle s) = false := by
  cases hr : syncR2WEnabled s with
  | true => simp [settle_of_readToWrite hr, syncR2WEnabled]
  | false =>
    cases hw : syncW2REnabled s with
    | true => rw [settle_of_writeToRead hr hw]; exact hr
    | false => rw [settle_of_settled hr hw, hr]

/-- Once the write side's view is there, one step of settling brings the read side's. -/
theorem syncW2REnabled_settle (hr : syncR2WEnabled s = false) : syncW2REnabled (settle s) = false := by
  cases hw : syncW2REnabled s with
  | true => simp [settle_of_writeToRead hr hw, syncW2REnabled]
  | false => rw [settle_of_settled hr hw, hw]

/-- A sound block with no turn left is at its end after two steps, one for each view. -/
theorem runSteps_two_of_no_turn (hs : Sound s) (hp : s.pending = []) : ∃ t, runSteps 2 s = .next t ∧ atEnd t = true := by
  have hone := step_of_no_turn hs.checked hp
  have hs' : Sound (settle s) := stepKeepsTheInvariant _ _ hs hone
  have hp' : (settle s).pending = [] := by rw [step_pending hone, hp, List.tail_nil]
  have htwo := step_of_no_turn hs'.checked hp'
  refine ⟨settle (settle s), ?_, atEnd_iff.mpr ⟨?_, syncR2WEnabled_settle _, syncW2REnabled_settle (syncR2WEnabled_settle s)⟩⟩
  · rw [runSteps_succ, hone]
    exact runSteps_one.trans htwo
  · rw [step_pending htwo, hp', List.tail_nil]

/-- The block of the configuration answers the turn whoever runs: the operand of a PREPARE fits (20_memory.md R73), a Sync turn
is under SYNC_MODE = 1 (10_state.md R39), and a RESET is not. -/
def AlwaysAnswered (c : Config) (turn : Turn) : Prop :=
  (∀ cmd f, turn = .portW cmd f → cmd = 0x01 → c.Fits f) ∧
    (c.syncMode = .shared → turn ≠ .syncR2W ∧ turn ≠ .syncW2R) ∧
    (c.syncMode = .lagging → turn ≠ .portC 0x08)

theorem AlwaysAnswered.admissible {turn : Turn} (h : AlwaysAnswered s.cfg turn) : admissible s turn = true := by
  obtain ⟨hfit, hsync, hreset⟩ := h
  cases turn with
  | portW cmd f => exact decide_eq_true (hfit cmd f rfl)
  | portC cmd => exact decide_eq_true fun hcmd hm => absurd (congrArg Turn.portC hcmd) (hreset hm)
  | syncR2W =>
    refine decide_eq_true (by_contra fun hm => ?_)
    exact (hsync (syncMode_shared_of_ne_lagging hm)).1 rfl
  | syncW2R =>
    refine decide_eq_true (by_contra fun hm => ?_)
    exact (hsync (syncMode_shared_of_ne_lagging hm)).2 rfl
  | portR | rst | running => rfl

/-- Settles O47, by induction on the turns to come: each is answered, and the step that takes it leaves the configuration. -/
theorem runsComeToTheirEnd : Obligations.RunsComeToTheirEnd := by
  intro s hs hturns
  change ∀ turn ∈ s.pending, AlwaysAnswered s.cfg turn at hturns
  generalize hp : s.pending = ts at hturns
  induction ts generalizing s with
  | nil => exact runSteps_two_of_no_turn hs hp
  | cons turn ts ih =>
    have hadm : admissible s turn = true := (hturns turn List.mem_cons_self).admissible
    obtain ⟨t, ht⟩ := soundBlocksAnswerEveryTurn s hs (by rwa [hp])
    have hp' : t.pending = ts := by rw [step_pending ht, hp, List.tail_cons]
    rw [List.length_cons, Nat.add_right_comm, runSteps_succ, ht]
    refine ih t (stepKeepsTheInvariant s t hs ht) hp' fun x hx => ?_
    rw [step_cfg ht]
    exact hturns x (List.mem_cons_of_mem turn hx)

end Sys2Proof.Machine
end

section
/-! The hazards of the reference agents (spec/70_reset_and_hazards.md): a RESET around an agent inside its program, the
Producer's undisturbed cycles, the programs run with no other move between, and the check-first Producer interleaved. -/

namespace Sys2Proof.Machine

variable {s t : State} {y y' z : System} {m : Move} {ms : List Move} {f : Frame} {render : Option Frame} {turn : Turn}

/-! ### RESET around the agents -/

theorem SameBlock.checked {u : State} (h : SameBlock s u) (hc : Checked s) : Checked u := by
  obtain ⟨ts, a, b, rfl⟩ := h
  exact hc

theorem agentsRunning_iff : agentsRunning s = true ↔ s.producerRunning = true ∨ s.consumerRunning = true :=
  Bool.or_eq_true_iff

theorem notedBlock_of_idle (hp : y.producerAt = .idle) (hc : y.consumerAt = .idle) : notedBlock y = y.block := by
  rw [notedBlock, if_pos hp, if_pos hc]

theorem notedBlock_producerRunning (y : System) :
    (notedBlock y).producerRunning = (decide (y.producerAt ≠ .idle) || y.block.producerRunning) := by
  by_cases hp : y.producerAt = .idle <;> by_cases hc : y.consumerAt = .idle <;> simp [notedBlock, hp, hc, setRunning]

theorem notedBlock_consumerRunning (y : System) :
    (notedBlock y).consumerRunning = (decide (y.consumerAt ≠ .idle) || y.block.consumerRunning) := by
  by_cases hp : y.producerAt = .idle <;> by_cases hc : y.consumerAt = .idle <;> simp [notedBlock, hp, hc, setRunning]

/-- An agent inside its program counts as running, as one that is noted so does. -/
theorem agentsRunning_notedBlock_iff : agentsRunning (notedBlock y) = true ↔
    y.producerAt ≠ .idle ∨ y.consumerAt ≠ .idle ∨ y.block.producerRunning = true ∨ y.block.consumerRunning = true := by
  simp only [agentsRunning_iff, notedBlock_producerRunning, notedBlock_consumerRunning, Bool.or_eq_true, decide_eq_true_eq]
  tauto

/-- A checked block with a RESET next runs it, on the turns that come after. -/
theorem step_of_reset {rest : List Turn} (hc : Checked s) (hp : s.pending = .portC 0x08 :: rest) :
    step s = exec .reset { s with pending := rest } :=
  (step_of_pending hc hp).trans runTurn_reset

theorem blockMove_of_fault {e : Fault} (h : step (notedBlock y) = .fault e) : blockMove y = .fault e := by
  rw [blockMove, h]

theorem blockMove_of_next (h : step (notedBlock y) = .next t) : blockMove y = .next { y with block := t } := by
  rw [blockMove, h]

/-- Under SYNC_MODE = 1 the block's own RESET is a fault while the noted block has an agent running. -/
theorem systemStep_reset_running {rest : List Turn} (hc : Checked y.block) (hm : y.block.cfg.syncMode = .lagging)
    (hp : y.block.pending = .portC 0x08 :: rest)
    (hrun : y.producerAt ≠ .idle ∨ y.consumerAt ≠ .idle ∨ y.block.producerRunning = true ∨ y.block.consumerRunning = true) :
    systemStep .block y = .fault .resetWhileRunning := by
  obtain ⟨hsame, hpend⟩ := notedBlock_same (y := y)
  have hlag : (notedBlock y).cfg.syncMode = .lagging := by rwa [hsame.samePool.cfg]
  have hstep := step_of_reset (hsame.checked hc) (hpend.trans hp)
  rw [systemStep_legal hc.1]
  exact blockMove_of_fault (hstep.trans (execReset_running hlag (agentsRunning_notedBlock_iff.mpr hrun)))

theorem beginCycle_producerAt_ne_idle (y : System) : (beginCycle y).producerAt ≠ .idle := by
  unfold beginCycle
  split <;> simp_all

theorem beginCallback_consumerAt_ne_idle (y : System) : (beginCallback y).consumerAt ≠ .idle := by
  unfold beginCallback
  split <;> simp_all

theorem stopAgent_w_between (h : y.producerAt = .idle ∨ y.producerAt = .backOff) :
    stopAgent .w y = { y with block := { y.block with producerRunning := false }, producerAt := .idle } := by
  obtain h | h := h
  · simp only [stopAgent, h]
    rw [← h]
    rfl
  · simp only [stopAgent, h]
    rfl

theorem stopAgent_r_between (h : y.consumerAt = .idle) :
    stopAgent .r y = { y with block := { y.block with consumerRunning := false } } := by
  simp only [stopAgent, h]
  rfl

/-- Settles O59: an agent that has begun is inside its program, and a system with both agents between two cycles and stopped
runs the RESET on the block as it is. -/
theorem resetFaultsInsideAProgram : Obligations.ResetFaultsInsideAProgram := by
  intro y rest hc hm hp
  have hvalid := hc.1
  refine ⟨systemStep_reset_running hc hm hp, ?_, fun hat => ?_, fun hat => ?_, fun hpat hcat hprod hcons => ?_⟩
  · rintro z (hz | hz)
    all_goals
      rw [systemStep_legal hvalid] at hz
      cases hz
    · obtain ⟨hsame, hpend⟩ := beginCycle_same (y := y)
      exact systemStep_reset_running (hsame.checked hc) (by rwa [hsame.samePool.cfg]) (hpend.trans hp)
        (.inl (beginCycle_producerAt_ne_idle y))
    · obtain ⟨hsame, hpend⟩ := beginCallback_same (y := y)
      exact systemStep_reset_running (hsame.checked hc) (by rwa [hsame.samePool.cfg]) (hpend.trans hp)
        (.inr (.inl (beginCallback_consumerAt_ne_idle y)))
  · rw [systemStep_legal hvalid, takeMove, stopAgent_w_between hat]
  · rw [systemStep_legal hvalid, takeMove, stopAgent_r_between hat]
  · have hreset := exec_reset_of_stopped (s := { y.block with pending := rest }) fun _ => ⟨hprod, hcons⟩
    refine ⟨_, hreset, ?_⟩
    rw [systemStep_legal hvalid]
    exact blockMove_of_next (by rw [notedBlock_of_idle hpat hcat, step_of_reset hc hp, hreset])

/-! ### The Producer's undisturbed cycles -/

/-- The block on which a PREPARE of the Producer runs is the block, but for the note of who runs. -/
theorem sameBlock_prepareNoted (s : State) : SameBlock s (noteCommand .w (commandWord .prepare) s) := ⟨_, _, _, rfl⟩

/-- Where the write side sees room, the frame is stored and the cycle is over. -/
theorem offerFrame_room (hs : Sound y.block) (hfit : y.block.cfg.Fits f) (hroom : fullSeen .w y.block = false) :
    offerFrame f y = .next { y with block := storeFrame f (noteCommand .w (commandWord .prepare) y.block), held := none,
                                    producerAt := .idle } := by
  have ht := execPrepare_room (f := f) (((sameBlock_prepareNoted y.block).samePool.fullSeen_eq .w).trans hroom)
  rw [offerFrame, issue_checked hs.checked, runTurn_prepare hfit, exec, ht]
  simp [accepted_storeFrame]

/-- Where the write side sees a full pool, one overrun is counted, and the Producer holds the frame and backs off. -/
theorem offerFrame_full (hs : Sound y.block) (hfit : y.block.cfg.Fits f) (hfull : fullSeen .w y.block = true) :
    offerFrame f y = .next { y with block := raise .overrun (noteCommand .w (commandWord .prepare) y.block), held := some f,
                                    producerAt := .backOff } := by
  have ht := execPrepare_full (f := f) (((sameBlock_prepareNoted y.block).samePool.fullSeen_eq .w).trans hfull)
  rw [offerFrame, issue_checked hs.checked, runTurn_prepare hfit, exec, ht]
  simp [accepted_overrun]

theorem renderAndOffer_none (hv : y.block.cfg.Valid) (h : cycleFrame y.held render = none) :
    renderAndOffer render y = .next y := by
  rw [renderAndOffer, h]
  exact skipCycle_legal hv

theorem renderAndOffer_some (h : cycleFrame y.held render = some f) : renderAndOffer render y = offerFrame f y := by
  rw [renderAndOffer, h]

/-- Settles O49: the cycle is the PREPARE of its frame on the block with the Producer noted, whose pool is the block's own. -/
theorem referenceProducerHoldsAndRetries : Obligations.ReferenceProducerHoldsAndRetries := by
  refine fun y hs => ⟨fun hheld => ?_, fun render f hf hfit => ?_⟩
  · exact renderAndOffer_none (by simpa using hs.valid) (by simp [cycleFrame, hheld])
  · have hnoted := (noteAgent_same (y := y) (d := .w)).1
    have hsame : SameBlock y.block (noteCommand .w (commandWord .prepare) (noteAgent .w y).block) := ⟨_, _, _, rfl⟩
    have hs' := hs.sameBlock hnoted
    have hseen := hnoted.samePool.fullSeen_eq .w
    rw [producerCycle, renderAndOffer_some (y := noteAgent .w y) (cycleFrame_eq_some hf)]
    cases hfull : fullSeen .w y.block with
    | false =>
      refine ⟨_, offerFrame_room hs' hfit (hseen.trans hfull), rfl, fun _ => ⟨rfl, ?_, rfl⟩, nofun⟩
      have hroom := (hsame.samePool.fullSeen_eq .w).trans hfull
      rw [contents_storeFrame (hs.sameBlock hsame) hroom, hsame.samePool.contents_eq, hsame.samePool.w]
    | true =>
      refine ⟨_, offerFrame_full hs' hfit (hseen.trans hfull), rfl, nofun, fun _ => ⟨rfl, ?_, rfl⟩⟩
      rw [contents_raise, hsame.samePool.contents_eq]

/-- An ISFULL on W answers a sound block with the same pool and counters, and tells the Producer whether there is room. -/
theorem Sound.runTurn_isFull_answers (hs : Sound s) :
    ∃ t, runTurn (.portW (commandWord .isFull) zeroFrame) s = .next t ∧ Sound t ∧ SamePool s t ∧ t.ocnt = s.ocnt ∧
      roomSeen t = !fullSeen .w s := by
  have hsame : SameBlock s (noteCommand .w (commandWord .isFull) s) := ⟨_, _, _, rfl⟩
  have ht := exec_isFull .w (noteCommand .w (commandWord .isFull) s)
  refine ⟨_, runTurn_isFull.trans ht, (hs.sameBlock hsame).respond (by decide), ?_, ?_, ?_⟩
  · constructor <;> simp
  · simp
  · rw [roomSeen_isFull ht, hsame.samePool.fullSeen_eq]

/-- With room in sight, offering the frame of the cycle, if there is one, overruns nothing. -/
theorem renderAndOffer_room (hs : Sound y.block) (hroom : fullSeen .w y.block = false)
    (hheld : ∀ f, y.held = some f → y.block.cfg.Fits f) (hrender : ∀ f, render = some f → y.block.cfg.Fits f) :
    ∃ y', renderAndOffer render y = .next y' ∧ y'.block.ocnt = y.block.ocnt := by
  cases hf : cycleFrame y.held render with
  | none => exact ⟨y, renderAndOffer_none hs.valid hf, rfl⟩
  | some f =>
    have hfit : y.block.cfg.Fits f := by
      cases hh : y.held with
      | none => exact hrender f (by simpa [cycleFrame, hh] using hf)
      | some g => exact hheld f (by simpa [cycleFrame, hh] using hf)
    refine ⟨_, (renderAndOffer_some hf).trans (offerFrame_room hs hfit hroom), ?_⟩
    simp

/-- Settles O50: the ISFULL leaves the pool, so the room it reports is there for the PREPARE. -/
theorem checkFirstProducerNeverOverruns : Obligations.CheckFirstProducerNeverOverruns := by
  intro y render hs hheld hrender
  have hs' : Sound (noteAgent .w y).block := hs.sameBlock noteAgent_same.1
  obtain ⟨t, ht, hst, hpool, hocnt, hroom⟩ := hs'.runTurn_isFull_answers
  have hcfg : t.cfg = y.block.cfg := hpool.cfg.trans (noteAgent_cfg .w)
  rw [checkFirstCycle, issue_checked hs'.checked, ht]
  cases hfull : fullSeen .w (noteAgent .w y).block with
  | true => exact ⟨{ y with block := t }, by simp [hroom, hfull], hocnt⟩
  | false =>
    obtain ⟨y', hy', ho⟩ := renderAndOffer_room (y := { y with block := t }) (render := render) hst
      ((hpool.fullSeen_eq .w).trans hfull) (by simpa [hcfg] using hheld) (by simpa [hcfg] using hrender)
    exact ⟨y', by simpa [hroom, hfull] using hy', ho.trans hocnt⟩

/-! ### The programs run with no other move between -/

theorem runMoves_cons_of_next (hv : y.block.cfg.Valid) (h : takeMove m y = .next z) :
    runMoves (m :: ms) y = runMoves ms z := by
  rw [runMoves, systemStep_legal hv, h]

theorem runMoves_cons_illegal_config (hv : ¬ y.block.cfg.Valid) : runMoves (m :: ms) y = .refused .invalidConfig := by
  rw [runMoves, systemStep_illegal_config hv]

/-- A move that issues a transaction, with the moves after it: the transaction, and then what the moves make of its answer. -/
theorem runMoves_cons_of_issue {k k' : State → Host.Outcome System Fault Refusal} (hv : y.block.cfg.Valid)
    (hm : takeMove m y = issue turn y.block k)
    (hk : ∀ t, t.cfg = y.block.cfg → ∃ z, k t = .next z ∧ runMoves ms z = k' t) :
    runMoves (m :: ms) y = issue turn y.block k' := by
  rw [runMoves, systemStep_legal hv, hm, issue, issue]
  cases ht : step { y.block with pending := turn :: y.block.pending } with
  | next t =>
    obtain ⟨z, hz, hr⟩ := hk t (step_cfg (s := { y.block with pending := turn :: y.block.pending }) ht)
    simp only [hz, hr]
  | fault e => rfl
  | refused e => rfl

theorem runMoves_producer_idle (hv : y.block.cfg.Valid) (hat : y.producerAt = .idle) :
    runMoves (.producer render :: ms) y = runMoves ms y :=
  runMoves_cons_of_next hv (by rw [takeMove, producerMove, hat])

/-- From where the frame of the cycle is taken, two moves of the Producer offer it or skip the cycle. The offer itself overwrites
what is held and where the Producer stands. -/
theorem runMoves_take_offer (hv : y.block.cfg.Valid)
    (hat : (y.producerAt = .start ∧ y.program = .holdAndRetry) ∨ y.producerAt = .render) :
    runMoves [.producer render, .producer render] y = renderAndOffer render { y with producerAt := .idle } := by
  have htake : takeMove (.producer render) y = .next (takeFrame render y) := producerMove_take hat
  rw [runMoves_cons_of_next hv htake]
  cases hf : cycleFrame y.held render with
  | none =>
    rw [takeFrame_none hf, renderAndOffer_none (y := { y with producerAt := .idle }) hv hf]
    exact runMoves_producer_idle (y := { y with producerAt := .idle }) hv rfl
  | some f =>
    rw [takeFrame_some hf, runMoves_single]
    calc systemStep (.producer render) { y with held := some f, producerAt := .offer }
      _ = producerMove render { y with held := some f, producerAt := .offer } := systemStep_legal hv
      _ = offerFrame f { y with held := some f, producerAt := .offer } := producerMove_offerFrame rfl rfl
      _ = offerFrame f { y with producerAt := .idle } := rfl
      _ = renderAndOffer render { y with producerAt := .idle } :=
        (renderAndOffer_some (y := { y with producerAt := .idle }) hf).symm

/-- From the head of a check-first cycle, three moves of the Producer ask for room and, where there is some, take and offer the
frame. -/
theorem runMoves_check_take_offer (hv : y.block.cfg.Valid) (hat : y.producerAt = .start) (hprog : y.program = .checkFirst) :
    runMoves [.producer render, .producer render, .producer render] y =
      issue (.portW (commandWord .isFull) zeroFrame) y.block fun t =>
        if roomSeen t then renderAndOffer render { y with block := t, producerAt := .idle }
        else .next { y with block := t, producerAt := .idle } := by
  refine runMoves_cons_of_issue hv (producerMove_checkRoom hat hprog) fun t ht => ⟨_, rfl, ?_⟩
  have hvt : t.cfg.Valid := by rwa [ht]
  cases hroom : roomSeen t with
  | true => exact runMoves_take_offer (y := { y with block := t, producerAt := .render }) hvt (.inr rfl)
  | false =>
    have hidle (ms : List Move) : runMoves (.producer render :: ms) { y with block := t, producerAt := .idle } =
        runMoves ms { y with block := t, producerAt := .idle } := runMoves_producer_idle hvt rfl
    exact (hidle _).trans (hidle _)

theorem runMoves_nextCycle (hv : y.block.cfg.Valid) (hat : y.producerAt = .idle) :
    runMoves (.nextCycle :: ms) y = runMoves ms { noteAgent .w y with producerAt := .start } :=
  runMoves_cons_of_next hv (by rw [takeMove, beginCycle_between (.inl hat)])

theorem with_producerAt_idle (hat : y.producerAt = .idle) : { y with producerAt := .idle } = y := by
  rw [← hat]

theorem holdAndRetry_undisturbed (hat : y.producerAt = .idle) (hprog : y.program = .holdAndRetry) :
    runMoves [.nextCycle, .producer render, .producer render] y = producerCycle render y := by
  by_cases hv : y.block.cfg.Valid
  · have hv' : (noteAgent .w y).block.cfg.Valid := by simpa using hv
    rw [runMoves_nextCycle hv hat]
    refine (runMoves_take_offer (y := { noteAgent .w y with producerAt := .start }) hv' (.inl ⟨rfl, hprog⟩)).trans ?_
    exact congrArg (renderAndOffer render) (with_producerAt_idle (y := noteAgent .w y) hat)
  · rw [runMoves_cons_illegal_config hv, producerCycle_illegal_config hv]

theorem checkFirst_undisturbed (hat : y.producerAt = .idle) (hprog : y.program = .checkFirst) :
    runMoves [.nextCycle, .producer render, .producer render, .producer render] y = checkFirstCycle render y := by
  by_cases hv : y.block.cfg.Valid
  · have hv' : (noteAgent .w y).block.cfg.Valid := by simpa using hv
    have hidle (t : State) : { y with block := t, producerAt := .idle } = { y with block := t } :=
      with_producerAt_idle (y := { y with block := t }) hat
    rw [runMoves_nextCycle hv hat]
    refine (runMoves_check_take_offer (y := { noteAgent .w y with producerAt := .start }) hv' rfl hprog).trans ?_
    simp only [noteAgent_held, noteAgent_device, noteAgent_program, noteAgent_consumerAt, hidle]
    rfl
  · rw [runMoves_cons_illegal_config hv, checkFirstCycle_illegal_config hv]

theorem consumer_undisturbed (hat : y.consumerAt = .idle) :
    runMoves [.callback, .consumer, .consumer] y = consumerTick y := by
  by_cases hv : y.block.cfg.Valid
  · have hv' : (noteAgent .r y).block.cfg.Valid := by simpa using hv
    have hbegin : takeMove .callback y = .next { noteAgent .r y with consumerAt := .use } := by
      rw [takeMove, beginCallback, hat]
    rw [runMoves_cons_of_next hv hbegin]
    refine runMoves_cons_of_issue hv' rfl fun t ht => ?_
    have hvt : t.cfg.Valid := by rw [ht]; exact hv'
    cases hlast : t.rOut.getLast? with
    | some x =>
      refine ⟨_, rfl, ?_⟩
      rw [runMoves_cons_of_next hvt rfl, runMoves, ← hat]
      rfl
    | none =>
      refine ⟨_, rfl, ?_⟩
      rw [runMoves_cons_of_next hvt rfl, runMoves, ← hat]
      simp
  · rw [runMoves_cons_illegal_config hv, consumerTick_illegal_config hv]

/-- Settles O57. -/
theorem undisturbedProgramsAreTheCycles : Obligations.UndisturbedProgramsAreTheCycles :=
  fun _ _ => ⟨holdAndRetry_undisturbed, checkFirst_undisturbed, consumer_undisturbed⟩

/-! ### The check-first Producer, interleaved -/

/-- From `s` to `t` no PREPARE was taken and none came in: the block is sound, room that the write side saw is still there, and
`OCNT` stays or is 0 after a hardware reset. -/
structure NothingPrepared (s t : State) : Prop where
  sound : Sound t
  alone : t.pending.all (fun x => !isPrepareTurn x) = true
  room : fullSeen .w s = false → fullSeen .w t = false
  ocnt : t.ocnt = s.ocnt ∨ t.ocnt = 0

theorem SameBlock.nothingPrepared (h : SameBlock s t) (hs : Sound s)
    (halone : t.pending.all (fun x => !isPrepareTurn x) = true) : NothingPrepared s t where
  sound := hs.sameBlock h
  alone := halone
  room := (h.samePool.fullSeen_eq .w).trans
  ocnt := .inl h.ocnt

/-- Only a PREPARE takes room, and only a PREPARE or a hardware reset changes `OCNT`. -/
theorem Effect.nothingPrepared {o : Option Turn} (h : Effect o s t) (hs : Sound s) (ho : o.any isPrepareTurn = false)
    (halone : t.pending.all (fun x => !isPrepareTurn x) = true) : NothingPrepared s t where
  sound := h.sound hs
  alone := halone
  room := by
    rw [fullSeen_false_iff, fullSeen_false_iff, h.cfg_eq]
    exact (h.filledSeen_w_le hs ho).trans_lt
  ocnt := by
    by_cases hrst : o = some .rst
    · rw [h.eq_hardwareReset hrst]
      exact .inr rfl
    · rw [h.ocnt_eq hrst, if_neg (by simp [ho])]
      exact .inl rfl

theorem NothingPrepared.trans {u : State} (h : NothingPrepared s t) (h' : NothingPrepared t u) : NothingPrepared s u where
  sound := h'.sound
  alone := h'.alone
  room := h'.room ∘ h.room
  ocnt := by
    have := h.ocnt
    have := h'.ocnt
    omega

/-- With no PREPARE among the turns to come, none is next and none comes after. -/
theorem head_tail_of_alone {ts : List Turn} (h : ts.all (fun x => !isPrepareTurn x) = true) :
    ts.head?.any isPrepareTurn = false ∧ ts.tail.all (fun x => !isPrepareTurn x) = true := by
  cases ts with
  | nil => exact ⟨rfl, rfl⟩
  | cons turn ts => simpa using h

theorem step_nothingPrepared (hs : Sound s) (h : step s = .next t)
    (halone : s.pending.all (fun x => !isPrepareTurn x) = true) : NothingPrepared s t := by
  obtain ⟨hhead, htail⟩ := head_tail_of_alone halone
  obtain ⟨u, hu, he⟩ := step_effect h
  rw [← step_pending h] at htail
  exact (hu.nothingPrepared hs (by rwa [← he.pending_eq])).trans (he.nothingPrepared (hs.sameBlock hu) hhead htail)

/-- A move that is not the Producer's offer puts no PREPARE in front of the block. -/
theorem isPrepareTurn_moveTurn (h : moveTurn m y = some turn)
    (hm : ¬ ((∃ render, m = .producer render) ∧ y.producerAt = .offer)) : isPrepareTurn turn = false := by
  unfold moveTurn at h
  split at h
  · cases h; rfl
  · have hat := ‹y.producerAt = .offer›
    exact absurd ⟨⟨_, rfl⟩, hat⟩ hm
  · cases h; rfl
  · cases h

theorem CheckFirstSound.nothingPrepared (h : CheckFirstSound y) (hm : takeMove m y = .next y')
    (hoffer : ¬ ((∃ render, m = .producer render) ∧ y.producerAt = .offer)) : NothingPrepared y.block y'.block := by
  obtain ⟨hsame, hp⟩ | hstep | ⟨turn, hturn, hstep⟩ := takeMove_block hm
  · exact hsame.nothingPrepared h.sound (by rw [hp]; exact h.alone)
  · obtain ⟨hsame, hp⟩ := notedBlock_same (y := y)
    have hnoted := hsame.nothingPrepared h.sound (by rw [hp]; exact h.alone)
    exact hnoted.trans (step_nothingPrepared hnoted.sound hstep hnoted.alone)
  · have hsame : SameBlock y.block { y.block with pending := turn :: y.block.pending } := ⟨_, _, _, rfl⟩
    have hfront := hsame.nothingPrepared h.sound (by simpa [isPrepareTurn_moveTurn hturn hoffer] using h.alone)
    exact hfront.trans (step_nothingPrepared hfront.sound hstep hfront.alone)

/-- Where the cycle goes on after its ISFULL there is room. -/
theorem Sound.room_of_checkRoom (hs : Sound y.block) (hm : checkRoom y = .next y') (hat : y'.producerAt ≠ .idle) :
    fullSeen .w y'.block = false := by
  obtain ⟨t, ht, rfl⟩ := checkRoom_cases hm
  obtain ⟨u, hu, -, hpool, -, hroom⟩ := hs.runTurn_isFull_answers
  rw [step_front hs.checked, hu] at ht
  cases ht
  have hseen : roomSeen t = true := by
    by_contra hno
    exact hat (if_neg hno)
  rw [hpool.fullSeen_eq]
  simpa [hroom] using hseen

/-- The Producer comes to stand behind an ISFULL that answered 0 only by that ISFULL. -/
theorem Sound.room_of_behind_isFull (hs : Sound y.block) (hprog : y.program = .checkFirst) (hm : takeMove m y = .next y')
    (hat : y'.producerAt = .render ∨ y'.producerAt = .offer) :
    (y.producerAt = .render ∨ y.producerAt = .offer) ∨ fullSeen .w y'.block = false := by
  cases m with
  | producer render =>
    rw [takeMove] at hm
    cases hy : y.producerAt with
    | idle =>
      rw [producerMove, hy] at hm
      cases hm
      simp [hy] at hat
    | start =>
      rw [producerMove_checkRoom hy hprog] at hm
      refine .inr (hs.room_of_checkRoom hm fun hidle => ?_)
      simp [hidle] at hat
    | render => exact .inl (.inl rfl)
    | offer => exact .inl (.inr rfl)
    | backOff =>
      rw [producerMove, hy] at hm
      cases hm
      split at hat <;> simp [hy] at hat
  | nextCycle =>
    cases hm
    left
    unfold beginCycle at hat
    split at hat <;> simp_all
  | stop p =>
    cases hm
    left
    cases p with
    | w =>
      simp only [stopAgent] at hat
      split at hat <;> simp_all
    | r => simpa using hat
  | consumer | callback | block =>
    obtain ⟨-, hsame⟩ := takeMove_leaves_producer hm nofun nofun nofun
    exact .inl (hsame ▸ hat)

/-- Behind an ISFULL that answered 0 the PREPARE of a held frame stores it, and the cycle is over. -/
theorem CheckFirstSound.offer (h : CheckFirstSound y) (hat : y.producerAt = .offer)
    (hm : producerMove render y = .next y') :
    CheckFirstSound y' ∧ y'.block.ocnt = y.block.ocnt := by
  cases hheld : y.held with
  | none =>
    rw [producerMove, hat, offerHeld, hheld] at hm
    cases hm
    exact ⟨⟨h.sound, h.program, h.alone, nofun⟩, rfl⟩
  | some f =>
    rw [producerMove_offerFrame hat hheld] at hm
    obtain ⟨t, ht, rfl⟩ := offerFrame_cases hm
    have hsound : Sound { y.block with pending := .portW (commandWord .prepare) f :: y.block.pending } :=
      h.sound.sameBlock ⟨_, _, _, rfl⟩
    refine ⟨⟨stepKeepsTheInvariant _ _ hsound ht, h.program, ?_, ?_⟩, ?_⟩
    · rw [step_pending ht]
      exact h.alone
    · intro hat'
      split at hat' <;> simp at hat'
    · obtain ⟨u, hu, he⟩ := step_effect ht
      obtain ⟨hfull, -⟩ | ⟨-, g, rfl⟩ := he.prepare_cases (by simp [isPrepareTurn])
      · rw [hu.samePool.fullSeen_eq] at hfull
        exact absurd ((h.room (.inr hat)).symm.trans hfull) nofun
      · exact (storeFrame_ocnt u g).trans hu.ocnt

theorem CheckFirstSound.takeMove (h : CheckFirstSound y) (hm : takeMove m y = .next y') :
    CheckFirstSound y' ∧ (y'.block.ocnt = y.block.ocnt ∨ y'.block.ocnt = 0) := by
  by_cases hoffer : (∃ render, m = .producer render) ∧ y.producerAt = .offer
  · obtain ⟨⟨render, rfl⟩, hat⟩ := hoffer
    obtain ⟨hkept, hocnt⟩ := h.offer hat hm
    exact ⟨hkept, .inl hocnt⟩
  · have hnothing := h.nothingPrepared hm hoffer
    refine ⟨⟨hnothing.sound, (takeMove_program hm).trans h.program, hnothing.alone, fun hat => ?_⟩, hnothing.ocnt⟩
    exact (h.sound.room_of_behind_isFull h.program hm hat).elim (fun hy => hnothing.room (h.room hy)) id

/-- Settles O58, by induction on the moves. -/
theorem checkFirstNeverOverrunsInterleaved : Obligations.CheckFirstNeverOverrunsInterleaved := by
  intro ms
  induction ms with
  | nil =>
    intro y y' h hrun
    cases hrun
    exact ⟨h, .inl rfl⟩
  | cons m ms ih =>
    intro y y' h hrun
    obtain ⟨z, hstep, hrest⟩ := runMoves_cons_cases hrun
    obtain ⟨-, hm⟩ := systemStep_cases hstep
    obtain ⟨hz, hfirst⟩ := h.takeMove hm
    obtain ⟨hy', hlast⟩ := ih z y' hz hrest
    exact ⟨hy', by omega⟩

end Sys2Proof.Machine
end
